-- ==== Sys2Proof/Word.lean ====
section
/-! DEFINITION. The word types of the block and the modulus (00_scope.md R9, R14, R17).
What the spec treats as bits is a bit vector; what it treats as a residue is a number below Q. -/

namespace Sys2Proof

/-- A 64-bit word of the host bus, or one entry of the matrix memory (00_scope.md R14). -/
abbrev Word := BitVec 64

/-- A command word (30_encoding.md R100). -/
abbrev CmdWord := BitVec 32

/-- The modulus Q = 998244353, hard-wired in every unit (00_scope.md R9). -/
abbrev Q : Nat := 998244353

/-- A residue: an integer in [0, Q), 30 bits wide (00_scope.md R14, 10_state.md R53). -/
abbrev Residue := Fin Q

end Sys2Proof
end

