-- ==== Sys2Proof/Syntax.lean ====
section
/-! DEFINITION. The sixteen commands of DFME-1 (30_encoding.md R101 to R114), the units that run
them, and the assembler's spelling of them. -/

namespace Sys2Proof

/-- Field B of the command word: the buffer a unit command works on (30_encoding.md R103). -/
inductive Buf where
  | row
  | psi
deriving DecidableEq, Repr

/-- Field I of the command word: the direction of a transform (30_encoding.md R104). -/
inductive Dir where
  | forward
  | inverse
deriving DecidableEq, Repr

/-- Field T of the command word: where construction takes the size from (30_encoding.md R105). -/
inductive SizeSel where
  /-- T = 0: the sizing rule starts from n·n. -/
  | square
  /-- T = 1: the sizing rule starts from the TARGET register. -/
  | target
deriving DecidableEq, Repr

/-- The commands, one constructor per row of spec/opcode_table.json (30_encoding.md R107). -/
inductive Instr where
  | nop
  | modpow
  | modinv
  | bitrev (b : Buf)
  | nttbf (b : Buf) (d : Dir)
  | ntt (b : Buf) (d : Dir)
  | fwht (b : Buf) (d : Dir)
  | scale (b : Buf)
  | pmul
  | config (t : SizeSel)
  | encrow
  | fuserow
  | mutate
  | extract
  | compute (t : SizeSel)
  | sreset
deriving DecidableEq, Repr

/-- The mnemonic of a command (30_encoding.md R107). -/
def Instr.mnemonic : Instr → String
  | .nop => "NOP"
  | .modpow => "MODPOW"
  | .modinv => "MODINV"
  | .bitrev _ => "BITREV"
  | .nttbf _ _ => "NTTBF"
  | .ntt _ _ => "NTT"
  | .fwht _ _ => "FWHT"
  | .scale _ => "SCALE"
  | .pmul => "PMUL"
  | .config _ => "CONFIG"
  | .encrow => "ENCROW"
  | .fuserow => "FUSEROW"
  | .mutate => "MUTATE"
  | .extract => "EXTRACT"
  | .compute _ => "COMPUTE"
  | .sreset => "SRESET"

/-- The six units of the block (00_scope.md R2). -/
inductive HwUnit where
  | meu
  | miu
  | brp
  | nbe
  | fbe
  | spo
deriving DecidableEq, Repr

/-- The units that run a command (30_encoding.md R107; COMPUTE runs on SPO "with all others",
43_orchestrator.md R210, of which MIU and MEU serve the transforms, 40_modular_arithmetic.md R140). -/
def Instr.units : Instr → List HwUnit
  | .nop => []
  | .modpow => [.meu]
  | .modinv => [.miu]
  | .bitrev _ => [.brp]
  | .nttbf _ _ => [.nbe]
  | .ntt _ _ => [.brp, .nbe]
  | .fwht _ _ => [.fbe]
  | .scale _ => [.nbe, .fbe]
  | .pmul => [.spo]
  | .config _ => [.spo]
  | .encrow => [.spo]
  | .fuserow => [.spo, .brp, .nbe]
  | .mutate => [.spo, .meu]
  | .extract => [.spo, .fbe]
  | .compute _ => [.spo, .meu, .miu, .brp, .nbe, .fbe]
  | .sreset => []

/-- The operand `ROW` or `PSI` of the assembler syntax (30_encoding.md R111). -/
def Buf.asm : Buf → String
  | .row => " ROW"
  | .psi => " PSI"

/-- The suffix `.F` or `.I` of the assembler syntax (30_encoding.md R111). -/
def Dir.asm : Dir → String
  | .forward => ".F"
  | .inverse => ".I"

/-- The suffix of a sized command: none for T = 0 and `.T` for T = 1 (30_encoding.md R111). -/
def SizeSel.asm : SizeSel → String
  | .square => ""
  | .target => ".T"

/-- The assembler's spelling of a command (30_encoding.md R111). -/
def Instr.asm (i : Instr) : String :=
  match i with
  | .bitrev b | .scale b => i.mnemonic ++ b.asm
  | .nttbf b d | .ntt b d | .fwht b d => i.mnemonic ++ d.asm ++ b.asm
  | .config t | .compute t => i.mnemonic ++ t.asm
  | .nop | .modpow | .modinv | .pmul | .encrow | .fuserow | .mutate | .extract | .sreset => i.mnemonic

/-- The pseudo-command `INTT b` is `NTT.I b` (30_encoding.md R112). -/
def Instr.intt (b : Buf) : Instr := .ntt b .inverse

/-- The pseudo-command `IFWHT b` is `FWHT.I b` (30_encoding.md R112). -/
def Instr.ifwht (b : Buf) : Instr := .fwht b .inverse

/-- The pseudo-command `NORM b` is `SCALE b` (30_encoding.md R112). -/
def Instr.norm (b : Buf) : Instr := .scale b

end Sys2Proof
end

