-- ==== Sys2Proof/WellFormed.lean ====
section
/-! DEFINITION. Well-formedness of a command word's fields (30_encoding.md R101, R102, R107, R108).
Every term of `Instr` is well formed by construction, because its operands are closed enumerations;
what can be ill formed is the tuple of raw fields a 32-bit word splits into. -/

namespace Sys2Proof

/-- The fields of a command word (30_encoding.md R101). -/
structure Fields where
  opc : BitVec 8
  b : Bool
  i : Bool
  t : Bool
  rsv : BitVec 21
deriving DecidableEq, Repr

/-- The four formats (30_encoding.md R102). -/
inductive Format where
  | c0
  | cb
  | cbi
  | ct
deriving DecidableEq, Repr

/-- The format of an opcode; none for an opcode that is not assigned (30_encoding.md R102, R107). -/
def formatOf (opc : BitVec 8) : Option Format :=
  if opc.toNat ∈ [0x00, 0x01, 0x02, 0x15, 0x21, 0x22, 0x23, 0x24, 0x3F] then some .c0
  else if opc.toNat ∈ [0x10, 0x14] then some .cb
  else if opc.toNat ∈ [0x11, 0x12, 0x13] then some .cbi
  else if opc.toNat ∈ [0x20, 0x25] then some .ct
  else none

/-- The opcode is one of the sixteen of 30_encoding.md R107. -/
def Fields.opcAssigned (f : Fields) : Bool := (formatOf f.opc).isSome

/-- The reserved bits 31:11 are zero (30_encoding.md R101). -/
def Fields.rsvZero (f : Fields) : Bool := f.rsv == 0

/-- The bits of B, I and T that are no field of the opcode's format are zero (30_encoding.md R102). -/
def Fields.unusedZero (f : Fields) : Bool :=
  match formatOf f.opc with
  | some .c0 => !f.b && !f.i && !f.t
  | some .cb => !f.i && !f.t
  | some .cbi => !f.t
  | some .ct => !f.b && !f.i
  | none => true

/-- A legal command word's fields (30_encoding.md R108). -/
def Fields.wellFormed (f : Fields) : Bool := f.opcAssigned && f.rsvZero && f.unusedZero

end Sys2Proof
end

