-- ==== Sys2Proof/Decode.lean ====
section
/-! DEFINITION. Decoding and encoding of command words (30_encoding.md R100 to R110). Decoding is
total on any bytes: a word is one of the 29 legal commands or it is refused. -/

namespace Sys2Proof

/-- The fields of a command word, bit 0 the least significant (30_encoding.md R101). -/
def splitWord (w : CmdWord) : Fields where
  opc := w.extractLsb' 0 8
  b := w.getLsbD 8
  i := w.getLsbD 9
  t := w.getLsbD 10
  rsv := w.extractLsb' 11 21

/-- B = 0 is ROW and B = 1 is PSI (30_encoding.md R103). -/
def bufOfBit (b : Bool) : Buf := if b then .psi else .row

/-- I = 0 is forward and I = 1 is inverse (30_encoding.md R104). -/
def dirOfBit (i : Bool) : Dir := if i then .inverse else .forward

/-- T = 0 sizes from n·n and T = 1 from TARGET (30_encoding.md R105). -/
def sizeOfBit (t : Bool) : SizeSel := if t then .target else .square

/-- Format C0: B, I and T must be 0 (30_encoding.md R102). -/
def decodeC0 (f : Fields) (i : Instr) : Option Instr := if f.b || f.i || f.t then none else some i

/-- Format CB: I and T must be 0 (30_encoding.md R102). -/
def decodeCB (f : Fields) (mk : Buf → Instr) : Option Instr :=
  if f.i || f.t then none else some (mk (bufOfBit f.b))

/-- Format CBI: T must be 0 (30_encoding.md R102). -/
def decodeCBI (f : Fields) (mk : Buf → Dir → Instr) : Option Instr :=
  if f.t then none else some (mk (bufOfBit f.b) (dirOfBit f.i))

/-- Format CT: B and I must be 0 (30_encoding.md R102). -/
def decodeCT (f : Fields) (mk : SizeSel → Instr) : Option Instr :=
  if f.b || f.i then none else some (mk (sizeOfBit f.t))

/-- The command of an opcode with its fields; none where the opcode is not assigned
(30_encoding.md R107, R110). -/
def decodeOpc (f : Fields) : Option Instr :=
  match f.opc.toNat with
  | 0x00 => decodeC0 f .nop
  | 0x01 => decodeC0 f .modpow
  | 0x02 => decodeC0 f .modinv
  | 0x10 => decodeCB f .bitrev
  | 0x11 => decodeCBI f .nttbf
  | 0x12 => decodeCBI f .ntt
  | 0x13 => decodeCBI f .fwht
  | 0x14 => decodeCB f .scale
  | 0x15 => decodeC0 f .pmul
  | 0x20 => decodeCT f .config
  | 0x21 => decodeC0 f .encrow
  | 0x22 => decodeC0 f .fuserow
  | 0x23 => decodeC0 f .mutate
  | 0x24 => decodeC0 f .extract
  | 0x25 => decodeCT f .compute
  | 0x3F => decodeC0 f .sreset
  | _ => none

/-- `Decode(w)` (30_encoding.md R110): a legal command, or none for an illegal word. -/
def decode (w : CmdWord) : Option Instr :=
  if (splitWord w).rsv != 0 then none else decodeOpc (splitWord w)

/-- The opcode of a command (30_encoding.md R107). -/
def Instr.opcode : Instr → Nat
  | .nop => 0x00
  | .modpow => 0x01
  | .modinv => 0x02
  | .bitrev _ => 0x10
  | .nttbf _ _ => 0x11
  | .ntt _ _ => 0x12
  | .fwht _ _ => 0x13
  | .scale _ => 0x14
  | .pmul => 0x15
  | .config _ => 0x20
  | .encrow => 0x21
  | .fuserow => 0x22
  | .mutate => 0x23
  | .extract => 0x24
  | .compute _ => 0x25
  | .sreset => 0x3F

/-- Field B in its place, bit 8. -/
def bufBit : Buf → Nat
  | .row => 0
  | .psi => 0x100

/-- Field I in its place, bit 9. -/
def dirBit : Dir → Nat
  | .forward => 0
  | .inverse => 0x200

/-- Field T in its place, bit 10. -/
def sizeBit : SizeSel → Nat
  | .square => 0
  | .target => 0x400

/-- The bits of B, I and T a command's word carries (30_encoding.md R101, R102). -/
def Instr.fieldBits : Instr → Nat
  | .bitrev b | .scale b => bufBit b
  | .nttbf b d | .ntt b d | .fwht b d => bufBit b + dirBit d
  | .config t | .compute t => sizeBit t
  | .nop | .modpow | .modinv | .pmul | .encrow | .fuserow | .mutate | .extract | .sreset => 0

/-- The word of a command (30_encoding.md R101, R107). -/
def encode (i : Instr) : CmdWord := BitVec.ofNat 32 (i.opcode + i.fieldBits)

/-- A command word read from bytes, least significant byte first, with the bytes that follow it;
none where fewer than four bytes are left or the word is illegal (20_memory.md R76). -/
def decodeBytes : List (BitVec 8) → Option (Instr × List (BitVec 8))
  | b0 :: b1 :: b2 :: b3 :: rest => (decode (b3 ++ b2 ++ b1 ++ b0)).map fun i => (i, rest)
  | _ => none

/-- The command word whose low `nbits` bits are those of `w` and whose other bits are 0. -/
def tableWord (nbits w : Nat) : CmdWord := BitVec.ofNat 32 (w % 2 ^ nbits)

/-- What the decoder reads from an instruction of the opcode table's numbering (bit 0 the least
significant bit of the one word); none where it refuses. -/
def decodeTableWord (nbits w : Nat) : Option Instr := decode (tableWord nbits w)

end Sys2Proof
end

