-- ==== Sys2Proof/Config.lean ====
section
/-! DEFINITION. What is fixed for one block or one run and is not state: the constants of
00_scope.md R9 to R13, the default root, and the free values, which have no body. -/

namespace Sys2Proof

/-- The default of the primitive root G. PRESUMED (log 1): the spec marks it general knowledge,
not in the source (00_scope.md R10). State holds the root in force in its field `root`. -/
def Config.defaultRoot : Residue := 3

/-- The ceiling of the transform length, 2^14 (00_scope.md R12). -/
def Config.ceil : Nat := 16384

/-- log2 of the ceiling (00_scope.md R12). -/
def Config.logCeil : Nat := 14

/-- The index stride (00_scope.md R13). -/
def Config.stride : Nat := 31

/-- The exponent factor 6/5 (00_scope.md R11), its numerator. -/
def Config.lambdaNum : Nat := 6

/-- The exponent factor 6/5 (00_scope.md R11), its denominator. -/
def Config.lambdaDen : Nat := 5

/-- FREE VALUE (log 5): the residue element t of ROW holds after a MATERR fault, the counter making
each fault's values fresh (60_exceptions.md R246). That it takes nothing else, neither the command nor
the failing column, is DESIGN CHOICE (log 5). -/
opaque Config.freeResidue : Nat → Nat → Residue

/-- FREE VALUE (log 4): which of the contents MAT has held since the issue a read of a word address
returns when MAT was changed meanwhile (20_memory.md R88). That it takes the counter and the address
alone, and not the command, is DESIGN CHOICE (log 4). -/
opaque Config.raceVersion : Nat → Word → Nat

end Sys2Proof
end

