-- ==== Sys2Proof/Machine/State.lean ====
section
/-! DEFINITION. The state of the block and of what stands at its ports (10_state.md), as plain data;
the reasons a step can stop; the state after reset (10_state.md R61). -/

namespace Sys2Proof.Machine

/-- How far the current computation has gone (10_state.md R48). -/
inductive Phase where
  | unconf
  | fusion
  | fused
  | mutated
  | done
deriving DecidableEq, Repr

/-- The architectural fault codes (60_exceptions.md R240). -/
inductive ErrCode where
  | none
  | illcmd
  | seq
  | precond
  | invzero
  | materr
deriving DecidableEq, Repr

/-- The three phases a PHASE_DONE event names (10_state.md R56). -/
inductive Stage where
  | fusion
  | mutation
  | extraction
deriving DecidableEq, Repr

/-- An event of the progress port (10_state.md R56, 60_exceptions.md R262). -/
inductive Event where
  | rowDone (i : BitVec 31)
  | phaseDone (p : Stage)
deriving DecidableEq, Repr

/-- What the platform answers to a read of a word of MAT (20_memory.md R83): data, an error, or,
for a platform that never answers, nothing (44_system.md R232). -/
inductive MatAnswer where
  | data (v : Word)
  | error
  | silent
deriving DecidableEq, Repr

/-- The matrix memory MAT (20_memory.md R74) as bytes, word address `a` at byte addresses 8a to
8a + 7, least significant byte first (R76). An unlisted byte has no value and a word that lacks one
answers with an error (log 3); the words of `silent` are never answered (log 6). -/
structure Memory where
  cells : List Host.Cell
  silent : List Nat
deriving DecidableEq, Repr

/-- One move of the host or the platform (44_system.md R237, R238; log 7). -/
inductive Move where
  /-- A host read of `width` bits at byte offset `off` of the block's window. -/
  | read (off width : Nat)
  /-- A host write of `width` bits at byte offset `off` of the block's window. -/
  | write (off width : Nat) (data : Word)
  /-- The reset input (70_reset_and_hazards.md R281). -/
  | rst
  /-- The platform changes what word address `a` of MAT answers (20_memory.md R88). -/
  | place (a : Word) (ans : MatAnswer)
  /-- The host lets the block take its own move. -/
  | wait
deriving DecidableEq, Repr

/-- What the host bus answers to an access (20_memory.md R78, R79). -/
inductive Reply where
  /-- An admitted read, with its data. -/
  | data (v : Word)
  /-- An admitted write. -/
  | ok
  /-- A refused access: an error response. -/
  | error
deriving DecidableEq, Repr

/-- The state: the registers of 10_state.md, the two buffers, the hidden latch and the trace, then
what stands outside the block (log 7, log 10). ROW and PSI hold their NLEN elements in use and give
the others no value (10_state.md R62, log 12). ID and QMOD are constants and CFG and DONE are
derived (R36, R59, R38), so they need no field. -/
structure State where
  /-- OPA (10_state.md R31). -/
  opa : Word
  /-- OPB (10_state.md R32). -/
  opb : Word
  /-- RES (10_state.md R33). -/
  res : Residue
  /-- NDIM (10_state.md R40). -/
  ndim : BitVec 32
  /-- TARGET (10_state.md R41). -/
  target : Word
  /-- MBASE (10_state.md R42). -/
  mbase : Word
  /-- NCFG (10_state.md R43). -/
  ncfg : BitVec 31
  /-- MCFG (10_state.md R44). -/
  mcfg : Word
  /-- NLEN (10_state.md R45). -/
  nlen : BitVec 15
  /-- LOGN (10_state.md R46). -/
  logn : BitVec 4
  /-- KEXP (10_state.md R47). -/
  kexp : Word
  /-- ROWCNT (10_state.md R49). -/
  rowcnt : BitVec 31
  /-- RESULT (10_state.md R34). -/
  result : Residue
  /-- FAULTCMD (10_state.md R55). -/
  faultcmd : CmdWord
  /-- STATUS.BUSY (10_state.md R38). -/
  busy : Bool
  /-- STATUS.ERR (10_state.md R38). -/
  err : Bool
  /-- STATUS.CDONE (10_state.md R38). -/
  cdone : Bool
  /-- STATUS.ERRCODE (10_state.md R38). -/
  errcode : ErrCode
  /-- PHASE (10_state.md R48). -/
  phase : Phase
  /-- CTRL.IE (10_state.md R39). -/
  ie : Bool
  /-- ROW[0 .. NLEN-1] (10_state.md R51). -/
  row : List Residue
  /-- PSI[0 .. NLEN-1] (10_state.md R52). -/
  psi : List Residue
  /-- The progress trace, newest event last (10_state.md R56). -/
  trace : List Event
  /-- LCMD (10_state.md R57). -/
  lcmd : CmdWord
  /-- ROOT: the root G the block was built with (10_state.md R59, log 1). -/
  root : Residue
  /-- MAT (20_memory.md R74). -/
  mat : Memory
  /-- The contents MAT has held since the issue of the command in flight, before those of `mat`,
  newest first; empty where MAT has not changed meanwhile (log 4). -/
  matOld : List Memory
  /-- The word addresses the matrix port has requested, newest last (20_memory.md R85, log 10). -/
  matReads : List Word
  /-- The moves the host and the platform are about to make, next first (log 7). -/
  inputs : List Move
  /-- The answers the host bus has given, newest last (log 10). -/
  replies : List Reply
  /-- The counter that makes free values fresh (log 14). -/
  freeCount : Nat
deriving DecidableEq, Repr

/-- Why a step stops with a fault. The architectural faults of 60_exceptions.md are no such stop:
they are recorded in State and the step answers a next state. -/
inductive Fault where
  /-- Raised by the bus (Machine/Bus.lean) for a host access at an offset 0x60000 or above, which is
  not the block's and is left to the platform (20_memory.md R81). Safe (log 8). -/
  | outsideWindow (off : Nat)
deriving DecidableEq, Repr

/-- Why a step refuses to go on. -/
inductive Refusal where
  /-- Raised by `exec` for a command that has no meaning yet; no command of this model is one. Safe. -/
  | notModelled (mnemonic : String)
deriving DecidableEq, Repr

/-- A step's three outcomes, with this machine's types. -/
abbrev Outcome := Host.Outcome State Fault Refusal

/-- MAT with nothing listed: every word address answers with an error (log 3). -/
def Memory.empty : Memory := ⟨[], []⟩

/-- The state after reset (10_state.md R61, 70_reset_and_hazards.md R282). LCMD is DESIGN CHOICE 0
(log 2), the root is PRESUMED 3 (log 1), freeCount is DESIGN CHOICE 0 (log 14). -/
def State.reset : State where
  opa := 0
  opb := 0
  res := 0
  ndim := 0
  target := 0
  mbase := 0
  ncfg := 0
  mcfg := 0
  nlen := 0
  logn := 0
  kexp := 0
  rowcnt := 0
  result := 0
  faultcmd := 0
  busy := false
  err := false
  cdone := false
  errcode := .none
  phase := .unconf
  ie := false
  row := []
  psi := []
  trace := []
  lcmd := 0
  root := Config.defaultRoot
  mat := Memory.empty
  matOld := []
  matReads := []
  inputs := []
  replies := []
  freeCount := 0

end Sys2Proof.Machine
end

