-- ==== Sys2Proof/Machine/Arith.lean ====
section
/-! DEFINITION. Residue arithmetic (40_modular_arithmetic.md R130 to R140): the three operations,
exponentiation and inverse. Every intermediate value is an unbounded number (R131). -/

namespace Sys2Proof.Machine

/-- `e mod Q` as a residue (00_scope.md R18). -/
def toResidue (e : Nat) : Residue := ⟨e % Q, Nat.mod_lt e (by decide)⟩

/-- AddMod (40_modular_arithmetic.md R130). -/
def addMod (u v : Residue) : Residue := toResidue (u.val + v.val)

/-- SubMod, in the source's form (u - v + Q) mod Q (40_modular_arithmetic.md R130). -/
def subMod (u v : Residue) : Residue := toResidue (u.val + Q - v.val)

/-- MulMod (40_modular_arithmetic.md R130). -/
def mulMod (u v : Residue) : Residue := toResidue (u.val * v.val)

/-- The square-and-multiply loop (40_modular_arithmetic.md R134): exponent `e`, accumulator `r`,
running square `x`; `fuel` bounds the number of exponent bits. -/
def powLoop : (fuel : Nat) → (e : Nat) → (r x : Residue) → Residue
  | 0, _, r, _ => r
  | fuel + 1, e, r, x =>
    if e = 0 then r
    else powLoop fuel (e / 2) (if e % 2 = 1 then mulMod r x else r) (mulMod x x)

/-- ModPow(b, e) = ((b mod Q) ^ e) mod Q (40_modular_arithmetic.md R133), computed by the binary
exponentiation of R134 (log 15). -/
def modPow (b e : Nat) : Residue := powLoop (Nat.log2 e + 1) e (toResidue 1) (toResidue b)

/-- ModInv(a) = ModPow(a, Q - 2) (40_modular_arithmetic.md R137). -/
def modInv (a : Nat) : Residue := modPow a (Q - 2)

end Sys2Proof.Machine
end

