-- ==== Sys2Proof/Machine/Spectral.lean ====
section
/-! DEFINITION. The transforms and the orchestrator's functions on sequences (41_ntt.md R151 to R163,
42_fwht.md R181, 43_orchestrator.md R190 to R209). They read and write no state. -/

namespace Sys2Proof.Machine

/-- Rev(m, i): the low m bits of i read backwards (41_ntt.md R151). -/
def rev : (m i : Nat) → Nat
  | 0, _ => 0
  | m + 1, i => (i % 2) * 2 ^ m + rev m (i / 2)

/-- Element t of a sequence; 0 where the sequence has none (log 18: no run reaches such a read). -/
def elem (x : List Residue) (t : Nat) : Residue := x.getD t 0

/-- BitRevSeq: y[i] = x[Rev(m, i)] for a sequence of length 2^m (41_ntt.md R152). -/
def bitRevSeq (m : Nat) (x : List Residue) : List Residue :=
  (List.range (2 ^ m)).map fun i => elem x (rev m i)

/-- One step of the incremental bit flip (41_ntt.md R152): from Rev(m, i - 1) to Rev(m, i). It clears
the set bits of `j` from `bit` down and sets the first clear one. -/
def bitFlip : (fuel bit j : Nat) → Nat
  | 0, _, j => j
  | fuel + 1, bit, j => if j &&& bit ≠ 0 then bitFlip fuel (bit / 2) (j - bit) else j + bit

/-- W(L, I): the stage twiddle of block size L, or its inverse (41_ntt.md R156). -/
def stageTwiddle (g : Residue) (L : Nat) : Dir → Residue
  | .forward => modPow g.val ((Q - 1) / L)
  | .inverse => modInv (modPow g.val ((Q - 1) / L)).val

/-- Butterfly(u, x, wn) (41_ntt.md R155). -/
def butterfly (u x wn : Residue) : Residue × Residue :=
  (addMod u (mulMod x wn), subMod u (mulMod x wn))

/-- The butterflies of one block: lower half `us`, upper half `xs`, running twiddle power `wn`
advanced by `w` at each inner step (41_ntt.md R157, R158). -/
def nttBlock (w wn : Residue) : List Residue → List Residue → List Residue × List Residue
  | u :: us, x :: xs =>
    let lohi := butterfly u x wn
    let rest := nttBlock w (mulMod wn w) us xs
    (lohi.1 :: rest.1, lohi.2 :: rest.2)
  | _, _ => ([], [])

/-- One FWHT block: sums of the halves, then differences (42_fwht.md R181). -/
def fwhtBlock (us vs : List Residue) : List Residue × List Residue :=
  (List.zipWith addMod us vs, List.zipWith subMod us vs)

/-- One stage: `f` on each of the first `blocks` blocks of size 2·half, in rising order
(41_ntt.md R157, R159; 42_fwht.md R181). -/
def overBlocks (f : List Residue → List Residue → List Residue × List Residue) (half : Nat) :
    (blocks : Nat) → List Residue → List Residue
  | 0, a => a
  | blocks + 1, a =>
    let lohi := f (a.take half) ((a.drop half).take half)
    lohi.1 ++ lohi.2 ++ overBlocks f half blocks (a.drop (2 * half))

/-- The stage of block size L = 2^(s+1) on a sequence of length 2^m (41_ntt.md R157). -/
def nttStage (g : Residue) (d : Dir) (m s : Nat) (a : List Residue) : List Residue :=
  overBlocks (nttBlock (stageTwiddle g (2 ^ (s + 1)) d) (toResidue 1)) (2 ^ s) (2 ^ (m - (s + 1))) a

/-- The butterfly stages L = 2, 4, .. 2^m (41_ntt.md R157). -/
def nttStages (g : Residue) (d : Dir) (m : Nat) (x : List Residue) : List Residue :=
  (List.range m).foldl (fun a s => nttStage g d m s a) x

/-- Multiplication of every element by ModInv(N) (41_ntt.md R160). -/
def scaleSeq (N : Nat) (x : List Residue) : List Residue := x.map fun e => mulMod e (modInv N)

/-- NttSeq(x, I) (41_ntt.md R161). -/
def nttSeq (g : Residue) (m : Nat) (d : Dir) (x : List Residue) : List Residue :=
  let z := nttStages g d m (bitRevSeq m x)
  match d with
  | .forward => z
  | .inverse => scaleSeq (2 ^ m) z

/-- The stage of half block h = 2^s on a sequence of length 2^m (42_fwht.md R181). -/
def fwhtStage (m s : Nat) (a : List Residue) : List Residue :=
  overBlocks fwhtBlock (2 ^ s) (2 ^ (m - (s + 1))) a

/-- The stages h = 1, 2, .. 2^(m-1) of the Walsh-Hadamard transform (42_fwht.md R181). -/
def fwhtStages (m : Nat) (x : List Residue) : List Residue :=
  (List.range m).foldl (fun a s => fwhtStage m s a) x

/-- FwhtSeq(x, I) (42_fwht.md R181). -/
def fwhtSeq (m : Nat) (d : Dir) (x : List Residue) : List Residue :=
  match d with
  | .forward => fwhtStages m x
  | .inverse => scaleSeq (2 ^ m) (fwhtStages m x)

/-- The elementwise product (43_orchestrator.md R199). -/
def mulSeq (x y : List Residue) : List Residue := List.zipWith mulMod x y

/-- MutateSeq(psi, k) (43_orchestrator.md R204). -/
def mutateSeq (k : Nat) (x : List Residue) : List Residue := x.map fun e => modPow e.val k

/-- log2 of SizeN(src): the least m with 2^m ≥ max(1, min(src, CEIL)) (43_orchestrator.md R191). -/
def sizeLog (src : Nat) : Nat :=
  ((List.range (Config.logCeil + 1)).find? fun m => max 1 (min src Config.ceil) ≤ 2 ^ m).getD
    Config.logCeil

/-- SizeN(src) (43_orchestrator.md R191). -/
def sizeN (src : Nat) : Nat := 2 ^ sizeLog src

/-- KExp(n, m) = ceil(n · m · 6/5) (43_orchestrator.md R192). -/
def kExp (n m : Nat) : Nat :=
  (Config.lambdaNum * n * m + (Config.lambdaDen - 1)) / Config.lambdaDen

/-- RootOk(N) (43_orchestrator.md R193). -/
def rootOk (g : Residue) (N : Nat) : Bool :=
  N = 1 ∨ ((Q - 1) % N = 0 ∧ (modPow (stageTwiddle g N .forward).val (N / 2)).val = Q - 1)

/-- Idx(i, j, n, N) (43_orchestrator.md R196). -/
def bucket (i j n N : Nat) : Nat := ((i * n + j) * Config.stride) % N

/-- Accumulation of the entry `e` modulo Q into bucket `t` (43_orchestrator.md R197). -/
def accumulate (buf : List Residue) (t : Nat) (e : Word) : List Residue :=
  buf.modify t fun r => addMod r (toResidue e.toNat)

/-- EncodeRow(i, n, N, M) for the entries `M` of one row: a zero buffer, then each column in rising
order (43_orchestrator.md R197, R200). -/
def encodeRow (i n N : Nat) (M : Nat → Word) : List Residue :=
  (List.range n).foldl (fun buf j => accumulate buf (bucket i j n N) (M j)) (List.replicate N 0)

/-- FuseStep(psi, i, n, N, M) with N = 2^m (43_orchestrator.md R200). -/
def fuseStep (g : Residue) (i n m : Nat) (M : Nat → Nat → Word) (psi : List Residue) : List Residue :=
  mulSeq psi (nttSeq g m .forward (encodeRow i n (2 ^ m) (M i)))

/-- The rows 0 to n - 1 fused into a sequence of ones (43_orchestrator.md R209). -/
def fuseAll (g : Residue) (n m : Nat) (M : Nat → Nat → Word) : List Residue :=
  (List.range n).foldl (fun psi i => fuseStep g i n m M psi) (List.replicate (2 ^ m) 1)

/-- PSI after the last phase of the pipeline (43_orchestrator.md R209). -/
def pipelineSeq (g : Residue) (n src : Nat) (M : Nat → Nat → Word) : List Residue :=
  fwhtSeq (sizeLog src) .inverse
    (mutateSeq (kExp n (sizeLog src)) (fuseAll g n (sizeLog src) M))

/-- Pipeline(n, src, M): element 0 of the last sequence (43_orchestrator.md R209). -/
def pipeline (g : Residue) (n src : Nat) (M : Nat → Nat → Word) : Residue :=
  elem (pipelineSeq g n src M) 0

end Sys2Proof.Machine
end

