-- ==== Sys2Proof/Machine/Ops.lean ====
section
/-! DEFINITION. The named operations over memory and state: MAT (20_memory.md R74, R83), the
completion of a command with fault entry (44_system.md R231, 60_exceptions.md R250), reset
(70_reset_and_hazards.md R281), issue (44_system.md R230) and events (00_scope.md R22). -/

namespace Sys2Proof.Machine

/-! ### MAT -/

/-- The byte MAT holds at a byte address; none where it is not listed (log 3). -/
def byteAt (cells : List Host.Cell) (a : Nat) : Option (BitVec 8) := cells.lookup a

/-- `k` bytes from `a` up as a number, least significant byte first (20_memory.md R76); none where
one of them is not listed. -/
def bytesAt (cells : List Host.Cell) : (k a : Nat) → Option Nat
  | 0, _ => some 0
  | k + 1, a =>
    match byteAt cells a, bytesAt cells k (a + 1) with
    | some b, some hi => some (b.toNat + 256 * hi)
    | _, _ => none

/-- The 64-bit word MAT holds at a word address (20_memory.md R74). -/
def wordAt (cells : List Host.Cell) (a : Nat) : Option Word :=
  (bytesAt cells 8 (8 * a)).map (BitVec.ofNat 64)

/-- One byte written, the addresses kept rising. -/
def setByte : List Host.Cell → Nat → BitVec 8 → List Host.Cell
  | [], a, v => [(a, v)]
  | c :: rest, a, v =>
    if a < c.1 then (a, v) :: c :: rest
    else if a = c.1 then (a, v) :: rest
    else c :: setByte rest a v

/-- `k` bytes of `v` written from `a` up, least significant byte first (20_memory.md R76). -/
def setBytes : (k a v : Nat) → List Host.Cell → List Host.Cell
  | 0, _, _, cells => cells
  | k + 1, a, v, cells => setBytes k (a + 1) (v / 256) (setByte cells a (BitVec.ofNat 8 v))

/-- The eight bytes of a word address removed. -/
def dropWord (cells : List Host.Cell) (a : Nat) : List Host.Cell :=
  cells.filter fun c => c.1 / 8 ≠ a

/-- A word address added to a rising list. -/
def insertAddr : List Nat → Nat → List Nat
  | [], a => [a]
  | b :: rest, a => if a < b then a :: b :: rest else if a = b then b :: rest else b :: insertAddr rest a

/-- What MAT answers to a read of a word address (20_memory.md R83). -/
def Memory.answer (m : Memory) (a : Word) : MatAnswer :=
  if a.toNat ∈ m.silent then .silent
  else
    match wordAt m.cells a.toNat with
    | some v => .data v
    | none => .error

/-- MAT after the platform has changed what a word address answers (20_memory.md R88). -/
def Memory.place (m : Memory) (a : Word) : MatAnswer → Memory
  | .data v => ⟨setBytes 8 (8 * a.toNat) v.toNat m.cells, m.silent.filter (· ≠ a.toNat)⟩
  | .error => ⟨dropWord m.cells a.toNat, m.silent.filter (· ≠ a.toNat)⟩
  | .silent => ⟨dropWord m.cells a.toNat, insertAddr m.silent a.toNat⟩

/-- The canonical form of MAT: byte addresses strictly rising and inside the 2^64 words of
20_memory.md R74, each word listed whole or not at all; silent word addresses strictly rising, inside
the space, and with no byte listed. Equal answers then mean equal data. -/
abbrev Memory.wf (m : Memory) : Prop :=
  (m.cells.map Prod.fst).Pairwise (· < ·) ∧
  (∀ c ∈ m.cells, c.1 < 2 ^ 67 ∧ ∀ b < 8, (byteAt m.cells (8 * (c.1 / 8) + b)).isSome) ∧
  m.silent.Pairwise (· < ·) ∧
  (∀ a ∈ m.silent, a < 2 ^ 64 ∧ ∀ c ∈ m.cells, c.1 / 8 ≠ a)

/-- `MatRead(a)` (20_memory.md R83). Where MAT has changed since the issue of the command, the answer
is that of one of the contents it has held meanwhile, and which one is free (R88, log 4). DESIGN CHOICE
(log 4): the contents in which the word was never answered are among them, so a command may stay stalled
although the platform has meanwhile placed data or an error there. -/
def matRead (s : State) (a : Word) : MatAnswer :=
  match s.matOld with
  | [] => s.mat.answer a
  | old => ((s.mat :: old).getD (Config.raceVersion s.freeCount a % (s.mat :: old).length) s.mat).answer a

/-- The platform changes MAT; while a command is in flight the earlier contents are kept, because
its reads may still return them (20_memory.md R88, log 4). -/
def placeMat (a : Word) (ans : MatAnswer) (s : State) : State :=
  { s with
    mat := s.mat.place a ans
    matOld := if s.busy then s.mat :: s.matOld else s.matOld
    freeCount := if s.busy then s.freeCount + 1 else s.freeCount }

/-! ### Events, issue, reset -/

/-- `emit ev` (00_scope.md R22). -/
def emit (e : Event) (s : State) : State := { s with trace := s.trace ++ [e] }

/-- `Issue(w)` (44_system.md R230). -/
def issue (w : CmdWord) (s : State) : State := { s with lcmd := w, busy := true, cdone := false }

/-- The values of 10_state.md R61 for every item of the block's state; the root, MAT and what stands
on the host's side of the bus are not reset (70_reset_and_hazards.md R284, log 13). -/
def resetBlock (s : State) : State :=
  { State.reset with
    root := s.root
    mat := s.mat
    matReads := s.matReads
    inputs := s.inputs
    replies := s.replies
    freeCount := s.freeCount }

/-! ### The life of a command -/

/-- How the pseudocode of a command ends: it is done, it raises a fault after the state changes that
fault keeps (00_scope.md R21), or a matrix read is never answered (44_system.md R232). -/
inductive Body where
  | done (s : State)
  | raise (code : ErrCode) (s : State)
  | stall
deriving DecidableEq, Repr

/-- `do CMD` inside a command's pseudocode, and what follows it (00_scope.md R23). -/
def Body.andThen (b : Body) (k : State → Body) : Body :=
  match b with
  | .done s => k s
  | .raise code s => .raise code s
  | .stall => .stall

/-- Fault entry (60_exceptions.md R250): the one operation that takes an exception. -/
def faultEntry (code : ErrCode) (s : State) : State :=
  { s with err := true, errcode := code, faultcmd := s.lcmd }

/-- The end of every completion step (44_system.md R231). No earlier contents of MAT can be read
after it (log 4). -/
def finish (s : State) : State := { s with busy := false, cdone := true, matOld := [] }

/-- The completion step of a command whose pseudocode ended so (44_system.md R231). A command whose
matrix read is never answered does not complete: nothing changes (44_system.md R232, log 6). -/
def complete (b : Body) (s : State) : Outcome :=
  match b with
  | .done t => .next (finish t)
  | .raise code t => .next (finish (faultEntry code t))
  | .stall => .next s

/-- The phase in which a command may run (43_orchestrator.md R212). -/
def phaseAllowed : Instr → Phase → Bool
  | .nop, _ | .modpow, _ | .modinv, _ | .sreset, _ | .config _, _ | .compute _, _ => true
  | .bitrev _, p | .nttbf _ _, p | .ntt _ _, p | .fwht _ _, p | .scale _, p | .pmul, p =>
    p != .unconf
  | .encrow, p | .fuserow, p => p == .fusion
  | .mutate, p => p == .fused
  | .extract, p => p == .mutated

/-- The completion of a legal command: SEQ where the phase does not allow it, else its pseudocode
(44_system.md R231, 60_exceptions.md R242, R248). -/
def runCommand (i : Instr) (body : State → Body) (s : State) : Outcome :=
  complete (if phaseAllowed i s.phase then body s else .raise .seq s) s

/-- The completion of an illegal command word (60_exceptions.md R241). -/
def completeIllegal (s : State) : Outcome := complete (.raise .illcmd s) s

/-- The return from a fault: there is none. The only way on is a reset, by `rst` or SRESET
(60_exceptions.md R253); this is the state the command SRESET leaves before its completion ends
(44_system.md R236). -/
def recoverFault (s : State) : State := resetBlock s

end Sys2Proof.Machine
end

