-- ==== Sys2Proof/Machine/Operands.lean ====
section
/-! DEFINITION. Where a command's operands come from (30_encoding.md R106): the selected buffer, the
signed dimension, the size source, the address of a matrix entry. -/

namespace Sys2Proof.Machine

/-- BUF(B) (30_encoding.md R103). -/
def getBuf : Buf → State → List Residue
  | .row, s => s.row
  | .psi, s => s.psi

/-- BUF(B) replaced (30_encoding.md R103). -/
def setBuf : Buf → List Residue → State → State
  | .row, x, s => { s with row := x }
  | .psi, x, s => { s with psi := x }

/-- `sint32(NDIM)` (00_scope.md R17, 10_state.md R40). -/
def dimension (s : State) : Int := s.ndim.toInt

/-- SizeSource(T, n) (43_orchestrator.md R190). -/
def sizeSource (t : SizeSel) (n : Nat) (s : State) : Nat :=
  match t with
  | .square => n * n
  | .target => s.target.toNat

/-- MatAddr(i, j), the base and the dimension being MCFG and NCFG (20_memory.md R84). -/
def matAddr (mcfg : Word) (n i j : Nat) : Word := mcfg + BitVec.ofNat 64 (i * n + j)

/-- The word addresses of the first `k` entries of row i, in the order the block reads them
(20_memory.md R85). -/
def rowAddrs (mcfg : Word) (n i k : Nat) : List Word :=
  (List.range k).map fun j => matAddr mcfg n i j

/-- How the reading of one matrix row ended: the encoded buffer, an error at the `reads`-th read, or
a read that is never answered. -/
inductive RowRead where
  | row (buf : List Residue)
  | failed (reads : Nat)
  | stalled
deriving DecidableEq, Repr

/-- The column loop of ENCROW (43_orchestrator.md R197): `todo` columns from column `j` on, read by
`ans` and accumulated into bucket `idx`. It stops at the first read that is not answered with data. -/
def encodeLoop (ans : Nat → MatAnswer) (idx : Nat → Nat) : (todo j : Nat) → List Residue → RowRead
  | 0, _, buf => .row buf
  | todo + 1, j, buf =>
    match ans j with
    | .data e => encodeLoop ans idx todo (j + 1) (accumulate buf (idx j) e)
    | .error => .failed (j + 1)
    | .silent => .stalled

/-- Row i of the matrix, read and encoded into a fresh zero buffer (43_orchestrator.md R197). -/
def readRow (s : State) (i : Nat) : RowRead :=
  encodeLoop (fun j => matRead s (matAddr s.mcfg s.ncfg.toNat i j))
    (fun j => bucket i j s.ncfg.toNat s.nlen.toNat) s.ncfg.toNat 0
    (List.replicate s.nlen.toNat 0)

/-- The unspecified residues a MATERR leaves in ROW: free values (60_exceptions.md R246, log 5).
DESIGN CHOICE (log 5): they are drawn by the counter and the index alone, so ENCROW and FUSEROW, and
errors at different columns, leave the same residues where they fail at equal counters; R246 leaves open
whether they do. -/
def freeRow (s : State) : List Residue :=
  (List.range s.nlen.toNat).map fun t => Config.freeResidue s.freeCount t

end Sys2Proof.Machine
end

