-- ==== Sys2Proof/Machine/Flags.lean ====
section
/-! DEFINITION. The STATUS word, the numbers of its fields, and the outputs that are functions of
state (10_state.md R38, R60; 60_exceptions.md R240, R255, R262). No command's arithmetic sets a
flag: the block has no arithmetic flags (10_state.md R38). -/

namespace Sys2Proof.Machine

/-- The value of PHASE (10_state.md R48). -/
def Phase.code : Phase → Nat
  | .unconf => 0
  | .fusion => 1
  | .fused => 2
  | .mutated => 3
  | .done => 4

/-- The value of ERRCODE (60_exceptions.md R240). -/
def ErrCode.code : ErrCode → Nat
  | .none => 0
  | .illcmd => 1
  | .seq => 2
  | .precond => 3
  | .invzero => 4
  | .materr => 5

/-- A flag in its place. -/
def flagBit (b : Bool) (n : Nat) : Nat := if b then 2 ^ n else 0

/-- STATUS.CFG (10_state.md R38). -/
def cfgFlag (s : State) : Bool := s.phase != .unconf

/-- STATUS.DONE (10_state.md R38). -/
def doneFlag (s : State) : Bool := s.phase == .done

/-- The word a read of STATUS returns (10_state.md R38); reserved bits read 0. -/
def statusWord (s : State) : Word :=
  BitVec.ofNat 64 (flagBit s.busy 0 + flagBit (cfgFlag s) 1 + flagBit (doneFlag s) 2 +
    flagBit s.err 3 + flagBit s.cdone 4 + s.phase.code * 2 ^ 8 + s.errcode.code * 2 ^ 16)

/-- The interrupt output (60_exceptions.md R255). -/
def irq (s : State) : Bool := s.ie && s.cdone

/-- The busy output (10_state.md R60). -/
def busyOut (s : State) : Bool := s.busy

/-- The index a PHASE_DONE event carries (10_state.md R56). -/
def Stage.index : Stage → Nat
  | .fusion => 1
  | .mutation => 2
  | .extraction => 3

/-- The kind field of an event on the progress port (60_exceptions.md R262). -/
def Event.kind : Event → BitVec 2
  | .rowDone _ => 1
  | .phaseDone _ => 2

/-- The index field of an event on the progress port (60_exceptions.md R262). -/
def Event.index : Event → BitVec 31
  | .rowDone i => i
  | .phaseDone p => BitVec.ofNat 31 p.index

end Sys2Proof.Machine
end

