-- ==== Sys2Proof/Machine/Transforms.lean ====
section
/-! DEFINITION. The transform units BRP, NBE and FBE (41_ntt.md R153, R157, R160, R162; 42_fwht.md
R182), in place on the buffer B selects, of length N = NLEN with m = LOGN. -/

namespace Sys2Proof.Machine

/-- BITREV (41_ntt.md R153). -/
def bitrevBody (b : Buf) (s : State) : Body :=
  .done (setBuf b (bitRevSeq s.logn.toNat (getBuf b s)) s)

/-- NTTBF (41_ntt.md R157). -/
def nttbfBody (b : Buf) (d : Dir) (s : State) : Body :=
  .done (setBuf b (nttStages s.root d s.logn.toNat (getBuf b s)) s)

/-- SCALE (41_ntt.md R160). -/
def scaleBody (b : Buf) (s : State) : Body :=
  .done (setBuf b (scaleSeq s.nlen.toNat (getBuf b s)) s)

/-- NTT: BITREV, NTTBF and, when inverse, SCALE (41_ntt.md R162). -/
def nttBody (b : Buf) (d : Dir) (s : State) : Body :=
  ((bitrevBody b s).andThen (nttbfBody b d)).andThen
    (match d with
      | .forward => .done
      | .inverse => scaleBody b)

/-- FWHT: the stages and, when inverse, SCALE (42_fwht.md R182). -/
def fwhtBody (b : Buf) (d : Dir) (s : State) : Body :=
  (Body.done (setBuf b (fwhtStages s.logn.toNat (getBuf b s)) s)).andThen
    (match d with
      | .forward => .done
      | .inverse => scaleBody b)

/-- The completion of BITREV. -/
def execBitrev (b : Buf) (s : State) : Outcome := runCommand (.bitrev b) (bitrevBody b) s

/-- The completion of NTTBF. -/
def execNttbf (b : Buf) (d : Dir) (s : State) : Outcome :=
  runCommand (.nttbf b d) (nttbfBody b d) s

/-- The completion of NTT. -/
def execNtt (b : Buf) (d : Dir) (s : State) : Outcome := runCommand (.ntt b d) (nttBody b d) s

/-- The completion of FWHT. -/
def execFwht (b : Buf) (d : Dir) (s : State) : Outcome := runCommand (.fwht b d) (fwhtBody b d) s

/-- The completion of SCALE. -/
def execScale (b : Buf) (s : State) : Outcome := runCommand (.scale b) (scaleBody b) s

end Sys2Proof.Machine
end

