-- ==== Sys2Proof/Machine/Orchestrator.lean ====
section
/-! DEFINITION. The pipeline orchestrator SPO (43_orchestrator.md R194 to R210). -/

namespace Sys2Proof.Machine

/-- The end of the fusion phase: PHASE and its event (43_orchestrator.md R194, R201). -/
def enterFused (s : State) : State := emit (.phaseDone .fusion) { s with phase := .fused }

/-- The registers and buffers construction writes: dimension n, length 2^m (43_orchestrator.md R194). -/
def constructRegs (n m : Nat) (s : State) : State :=
  { s with
    ncfg := BitVec.ofNat 31 n
    mcfg := s.mbase
    nlen := BitVec.ofNat 15 (2 ^ m)
    logn := BitVec.ofNat 4 m
    kexp := BitVec.ofNat 64 (kExp n m)
    rowcnt := 0
    result := 0
    row := List.replicate (2 ^ m) 0
    psi := List.replicate (2 ^ m) 1
    phase := .fusion }

/-- What CONFIG writes once its checks have passed. With n = 0 there is no row to fuse
(43_orchestrator.md R194). -/
def construct (n m : Nat) (s : State) : State :=
  if n = 0 then enterFused (constructRegs n m s) else constructRegs n m s

/-- CONFIG (43_orchestrator.md R194). -/
def configBody (t : SizeSel) (s : State) : Body :=
  if dimension s < 0 then .raise .precond s
  else
    let n := (dimension s).toNat
    let m := sizeLog (sizeSource t n s)
    if rootOk s.root (2 ^ m) then .done (construct n m s) else .raise .precond s

/-- ENCROW (43_orchestrator.md R197). On a read error ROW is left unspecified and the command stops
at the failing read (60_exceptions.md R246). -/
def encrowBody (s : State) : Body :=
  let i := s.rowcnt.toNat
  let n := s.ncfg.toNat
  match readRow s i with
  | .row buf => .done { s with row := buf, matReads := s.matReads ++ rowAddrs s.mcfg n i n }
  | .failed k =>
    .raise .materr
      { s with
        row := freeRow s
        freeCount := s.freeCount + 1
        matReads := s.matReads ++ rowAddrs s.mcfg n i k }
  | .stalled => .stall

/-- PMUL (43_orchestrator.md R199). -/
def pmulBody (s : State) : Body := .done { s with psi := mulSeq s.psi s.row }

/-- The row just fused: its event and ROWCNT (43_orchestrator.md R201). -/
def countRow (s : State) : State :=
  { s with trace := s.trace ++ [.rowDone s.rowcnt], rowcnt := s.rowcnt + 1 }

/-- The end of a fusion step: FUSED after the last row (43_orchestrator.md R201). -/
def advanceRow (s : State) : State :=
  if s.rowcnt + 1 = s.ncfg then enterFused (countRow s) else countRow s

/-- FUSEROW (43_orchestrator.md R201). -/
def fuserowBody (s : State) : Body :=
  (((encrowBody s).andThen (nttBody .row .forward)).andThen pmulBody).andThen
    fun t => .done (advanceRow t)

/-- MUTATE (43_orchestrator.md R205). -/
def mutateBody (s : State) : Body :=
  .done (emit (.phaseDone .mutation)
    { s with psi := mutateSeq s.kexp.toNat s.psi, phase := .mutated })

/-- EXTRACT (43_orchestrator.md R208). -/
def extractBody (s : State) : Body :=
  (fwhtBody .psi .inverse s).andThen fun t =>
    .done (emit (.phaseDone .extraction) { t with result := elem t.psi 0, phase := .done })

/-- FUSEROW done `k` times. -/
def fuseRows : (k : Nat) → State → Body
  | 0, s => .done s
  | k + 1, s => (fuserowBody s).andThen (fuseRows k)

/-- `while ROWCNT < NCFG: do FUSEROW` (43_orchestrator.md R210). -/
def fuseRest (s : State) : Body := fuseRows (s.ncfg.toNat - s.rowcnt.toNat) s

/-- COMPUTE (43_orchestrator.md R210). -/
def computeBody (t : SizeSel) (s : State) : Body :=
  (((configBody t s).andThen fuseRest).andThen mutateBody).andThen extractBody

/-- The completion of CONFIG. -/
def execConfig (t : SizeSel) (s : State) : Outcome := runCommand (.config t) (configBody t) s

/-- The completion of ENCROW. -/
def execEncrow (s : State) : Outcome := runCommand .encrow encrowBody s

/-- The completion of PMUL. -/
def execPmul (s : State) : Outcome := runCommand .pmul pmulBody s

/-- The completion of FUSEROW. -/
def execFuserow (s : State) : Outcome := runCommand .fuserow fuserowBody s

/-- The completion of MUTATE. -/
def execMutate (s : State) : Outcome := runCommand .mutate mutateBody s

/-- The completion of EXTRACT. -/
def execExtract (s : State) : Outcome := runCommand .extract extractBody s

/-- The completion of COMPUTE. -/
def execCompute (t : SizeSel) (s : State) : Outcome := runCommand (.compute t) (computeBody t) s

end Sys2Proof.Machine
end

