-- ==== Sys2Proof/Machine/Primitives.lean ====
section
/-! DEFINITION. The primitive units MEU and MIU (40_modular_arithmetic.md R135, R138). -/

namespace Sys2Proof.Machine

/-- MODPOW (40_modular_arithmetic.md R135). -/
def modpowBody (s : State) : Body := .done { s with res := modPow s.opa.toNat s.opb.toNat }

/-- MODINV: RES is written before the fault is raised (40_modular_arithmetic.md R138,
60_exceptions.md R245). -/
def modinvBody (s : State) : Body :=
  let t := { s with res := modInv s.opa.toNat }
  if s.opa.toNat % Q = 0 then .raise .invzero t else .done t

/-- The completion of MODPOW. -/
def execModpow (s : State) : Outcome := runCommand .modpow modpowBody s

/-- The completion of MODINV. -/
def execModinv (s : State) : Outcome := runCommand .modinv modinvBody s

end Sys2Proof.Machine
end

