-- ==== Sys2Proof/Machine/System.lean ====
section
/-! DEFINITION. The system commands NOP and SRESET (44_system.md R234, R236). -/

namespace Sys2Proof.Machine

/-- NOP (44_system.md R234). -/
def nopBody (s : State) : Body := .done s

/-- SRESET (44_system.md R236). -/
def sresetBody (s : State) : Body := .done (recoverFault s)

/-- The completion of NOP. -/
def execNop (s : State) : Outcome := runCommand .nop nopBody s

/-- The completion of SRESET. -/
def execSreset (s : State) : Outcome := runCommand .sreset sresetBody s

end Sys2Proof.Machine
end

