-- ==== Sys2Proof/Machine/Dispatch.lean ====
section
/-! DEFINITION. The completion step of each legal command (44_system.md R231), one arm per command. -/

namespace Sys2Proof.Machine

/-- The completion step of the legal command `i` (44_system.md R231). -/
def exec (i : Instr) (s : State) : Host.Outcome State Fault Refusal :=
  match i with
  | .nop => Sys2Proof.Machine.execNop s
  | .modpow => Sys2Proof.Machine.execModpow s
  | .modinv => Sys2Proof.Machine.execModinv s
  | .bitrev b => Sys2Proof.Machine.execBitrev b s
  | .nttbf b d => Sys2Proof.Machine.execNttbf b d s
  | .ntt b d => Sys2Proof.Machine.execNtt b d s
  | .fwht b d => Sys2Proof.Machine.execFwht b d s
  | .scale b => Sys2Proof.Machine.execScale b s
  | .pmul => Sys2Proof.Machine.execPmul s
  | .config t => Sys2Proof.Machine.execConfig t s
  | .encrow => Sys2Proof.Machine.execEncrow s
  | .fuserow => Sys2Proof.Machine.execFuserow s
  | .mutate => Sys2Proof.Machine.execMutate s
  | .extract => Sys2Proof.Machine.execExtract s
  | .compute t => Sys2Proof.Machine.execCompute t s
  | .sreset => Sys2Proof.Machine.execSreset s

end Sys2Proof.Machine
end

