-- ==== Sys2Proof/Machine/Bus.lean ====
section
/-! DEFINITION. The host bus (20_memory.md R70 to R95): the address map, which accesses are admitted,
refused or held, and what an admitted one does; the moves of 44_system.md R237 and R238; host scripts
(30_encoding.md R113). -/

namespace Sys2Proof.Machine

/-- The twenty registers in the order of their offsets (20_memory.md R81). -/
inductive Reg where
  | id
  | cmd
  | status
  | ctrl
  | opa
  | opb
  | res
  | ndim
  | target
  | mbase
  | ncfg
  | mcfg
  | nlen
  | logn
  | kexp
  | rowcnt
  | result
  | faultcmd
  | qmod
  | root
deriving DecidableEq, Repr

/-- All registers, the one at offset 8k in place k (20_memory.md R81). -/
def allRegs : List Reg :=
  [.id, .cmd, .status, .ctrl, .opa, .opb, .res, .ndim, .target, .mbase, .ncfg, .mcfg, .nlen, .logn,
    .kexp, .rowcnt, .result, .faultcmd, .qmod, .root]

/-- What an offset of the window names (20_memory.md R81). -/
inductive Place where
  | reg (r : Reg)
  | elem (b : Buf) (t : Nat)
deriving DecidableEq, Repr

/-- The size in bytes of the block's window (20_memory.md R70). -/
def windowSize : Nat := 0x60000

/-- The offset of element 0 of a buffer window (20_memory.md R72, R73). -/
def bufBase : Buf → Nat
  | .row => 0x20000
  | .psi => 0x40000

/-- The address map at an 8-byte-aligned offset; none where the offset is reserved (20_memory.md R81). -/
def placeOf (off : Nat) : Option Place :=
  if off < 0xA0 then allRegs[off / 8]?.map .reg
  else if off < bufBase .row then none
  else if off < bufBase .psi then some (.elem .row ((off - bufBase .row) / 8))
  else if off < windowSize then some (.elem .psi ((off - bufBase .psi) / 8))
  else none

/-- A residue in a 64-bit word, zero above bit 29 (10_state.md R33, R35). -/
def residueWord (r : Residue) : Word := BitVec.ofNat 64 r.val

/-- The ID constant (10_state.md R36). -/
def idWord : Word := 0x0000000144464D45#64

/-- The word an admitted read of a register returns; none for CMD, which is write-only. A register
narrower than 64 bits reads zero above its width (10_state.md R31 to R49, R55, R59). -/
def regRead (s : State) : Reg → Option Word
  | .id => some idWord
  | .cmd => none
  | .status => some (statusWord s)
  | .ctrl => some (if s.ie then 1 else 0)
  | .opa => some s.opa
  | .opb => some s.opb
  | .res => some (residueWord s.res)
  | .ndim => some (s.ndim.setWidth 64)
  | .target => some s.target
  | .mbase => some s.mbase
  | .ncfg => some (s.ncfg.setWidth 64)
  | .mcfg => some s.mcfg
  | .nlen => some (s.nlen.setWidth 64)
  | .logn => some (s.logn.setWidth 64)
  | .kexp => some s.kexp
  | .rowcnt => some (s.rowcnt.setWidth 64)
  | .result => some (residueWord s.result)
  | .faultcmd => some (s.faultcmd.setWidth 64)
  | .qmod => some (BitVec.ofNat 64 Q)
  | .root => some (residueWord s.root)

/-- A host access to element t of a buffer window may go on (20_memory.md R82). -/
def reachable (s : State) (t : Nat) : Bool := s.phase != .unconf && t < s.nlen.toNat

/-- What a host write to an operand register does: refused while ERR = 1 (20_memory.md R95). -/
def ifNoErr (s t : State) : Option State := if s.err then none else some t

/-- What a host write of `v` to a register does; none where it is refused (10_state.md R37 to R42,
20_memory.md R78, R95). -/
def regWrite (s : State) (v : Word) : Reg → Option State
  | .cmd =>
    if v.toNat < 2 ^ 32 && (!s.err || v == 0x3F) then some (issue (v.setWidth 32) s) else none
  | .status => if v == 0 then some s else if v == 0x10 then some { s with cdone := false } else none
  | .ctrl => if v.toNat < 2 then some { s with ie := v == 1 } else none
  | .opa => ifNoErr s { s with opa := v }
  | .opb => ifNoErr s { s with opb := v }
  | .ndim => if v.toNat < 2 ^ 32 then ifNoErr s { s with ndim := v.setWidth 32 } else none
  | .target => ifNoErr s { s with target := v }
  | .mbase => ifNoErr s { s with mbase := v }
  | .id | .res | .ncfg | .mcfg | .nlen | .logn | .kexp | .rowcnt | .result | .faultcmd | .qmod
  | .root => none

/-- Only aligned 64-bit accesses are admitted (20_memory.md R77). -/
def wellShaped (off width : Nat) : Bool := width == 64 && off % 8 == 0

/-- `HostRead(off)` once it is not held; none where it is refused (20_memory.md R78, R82). -/
def hostRead (s : State) (off width : Nat) : Option Word :=
  if wellShaped off width then
    match placeOf off with
    | some (.reg r) => regRead s r
    | some (.elem b t) => if reachable s t then some (residueWord (elem (getBuf b s) t)) else none
    | none => none
  else none

/-- `HostWrite(off, v)` once it is not held; none where it is refused (20_memory.md R78, R82, R95). -/
def hostWrite (s : State) (off width : Nat) (v : Word) : Option State :=
  if wellShaped off width then
    match placeOf off with
    | some (.reg r) => regWrite s v r
    | some (.elem b t) =>
      if reachable s t && v.toNat < Q then
        ifNoErr s (setBuf b ((getBuf b s).set t (toResidue v.toNat)) s)
      else none
    | none => none
  else none

/-- The answer of the host bus, kept for the host (log 10). -/
def reply (r : Reply) (s : State) : State := { s with replies := s.replies ++ [r] }

/-- An access that is not held. A refused one gets an error response and changes nothing else
(20_memory.md R79, log 9); one outside the window is not the block's (R81, log 8). -/
def access (m : Move) (s : State) : Outcome :=
  match m with
  | .read off width =>
    if windowSize ≤ off then .fault (.outsideWindow off)
    else
      match hostRead s off width with
      | some v => .next (reply (.data v) s)
      | none => .next (reply .error s)
  | .write off width v =>
    if windowSize ≤ off then .fault (.outsideWindow off)
    else
      match hostWrite s off width v with
      | some t => .next (reply .ok t)
      | none => .next (reply .error s)
  | .rst => .next (resetBlock s)
  | .place a ans => .next (placeMat a ans s)
  | .wait => .next s

/-- The moves that take place while BUSY = 1: a read of STATUS (20_memory.md R80), an access outside
the block's window, reset (70_reset_and_hazards.md R281), and the platform's changes of MAT
(20_memory.md R88). Every other access is held. -/
def overtakes : Move → Bool
  | .read off width => (off == 0x10 && width == 64) || windowSize ≤ off
  | .write off _ _ => windowSize ≤ off
  | .rst | .place _ _ => true
  | .wait => false

/-- The state in which the block takes its own move, where that is the next thing to happen while
BUSY = 1: no move is waiting, the host waits, or the next access is held (20_memory.md R80). -/
def blockTurn (s : State) : Option State :=
  match s.inputs with
  | [] => some s
  | .wait :: rest => some { s with inputs := rest }
  | m :: _ => if overtakes m then none else some s

/-- The completion step (44_system.md R231): the latched command decoded and run. -/
def completion (s : State) : Outcome :=
  match decode s.lcmd with
  | some i => exec i s
  | none => completeIllegal s

/-- The next move of the host or the platform; with none waiting the block is idle
(60_exceptions.md R266). -/
def nextMove (s : State) : Outcome :=
  match s.inputs with
  | [] => .next s
  | m :: rest => access m { s with inputs := rest }

/-- One move of the whole machine (44_system.md R238): while BUSY = 1 the completion, unless a move
that is not held comes first; otherwise the next move. -/
def machineMove (s : State) : Outcome :=
  if s.busy then
    match blockTurn s with
    | some t => completion t
    | none => nextMove s
  else nextMove s

/-- A command word issued so that the very next step completes it: LCMD, BUSY and CDONE as an issue
leaves them (44_system.md R230), and a wait where a move that is not held would come first (log 11). -/
def issueNext (w : CmdWord) (s : State) : State :=
  let t := issue w s
  match blockTurn t with
  | some _ => t
  | none => { t with inputs := .wait :: t.inputs }

/-! ### Host scripts -/

/-- The offset of a register (20_memory.md R81). -/
def Reg.offset (r : Reg) : Nat := 8 * allRegs.idxOf r

/-- The offset of element t of a buffer window (20_memory.md R72, R73). -/
def elemOffset (b : Buf) (t : Nat) : Nat := bufBase b + 8 * t

/-- A line of a host script (30_encoding.md R113). -/
inductive ScriptLine where
  | wr (r : Reg) (v : Word)
  | wrElem (b : Buf) (t : Nat) (v : Word)
  | mat (a v : Word)
  | cmd (i : Instr)
  | rd (r : Reg)
  | rdElem (b : Buf) (t : Nat)
deriving DecidableEq, Repr

/-- The moves of a script line (30_encoding.md R113). Polling until BUSY = 0 is the host's wait and a
last read of STATUS. -/
def ScriptLine.moves : ScriptLine → List Move
  | .wr r v => [.write r.offset 64 v]
  | .wrElem b t v => [.write (elemOffset b t) 64 v]
  | .mat a v => [.place a (.data v)]
  | .cmd i => [.write Reg.cmd.offset 64 ((encode i).setWidth 64), .wait, .read Reg.status.offset 64]
  | .rd r => [.read r.offset 64]
  | .rdElem b t => [.read (elemOffset b t) 64]

end Sys2Proof.Machine
end

