-- ==== Sys2Proof/Machine/Step.lean ====
section
/-! DEFINITION. One step of the machine (44_system.md R238), and how a command word is placed so that
the next step runs it (log 11). -/

namespace Sys2Proof.Machine

/-- One step: the block's completion or the next move of the host (44_system.md R238). -/
def step (s : State) : Host.Outcome State Fault Refusal := machineMove s

/-- The state with the command word of the opcode table's numbering issued (44_system.md R230). -/
def State.withFetchWord (s : State) (nbits w : Nat) : State := issueNext (tableWord nbits w) s

end Sys2Proof.Machine
end

