-- ==== Sys2Proof/Safety.lean ====
section
/-! DEFINITION. The terms claims are stated in: what a good state is (10_state.md R63), the phase table
of 43_orchestrator.md R212, the opcode table of 30_encoding.md R107, what a command leaves alone, and
the closed forms of the transforms (41_ntt.md R163, 42_fwht.md R183). -/

namespace Sys2Proof.Machine

/-! ### Good states -/

/-- The invariants of 10_state.md R63 with R46 and R62, and the model's own: fault record and command
in flight agree (60_exceptions.md R251), MAT keeps its canonical form. (d) and (e) of R63, that every
reachable element, RES and RESULT are below Q, hold by the type `Residue`. R63 (a) to (c) and (f) are
kept while BUSY = 1 too. -/
structure StateInv (s : State) : Prop where
  /-- (a) -/
  unconf_iff : s.phase = .unconf ↔ s.nlen.toNat = 0
  /-- (b) -/
  nlen_pow : s.phase ≠ .unconf → s.nlen.toNat = 2 ^ s.logn.toNat
  /-- (b) -/
  logn_le : s.logn.toNat ≤ 14
  /-- LOGN = 0 while nothing is configured (10_state.md R46). -/
  logn_unconf : s.phase = .unconf → s.logn.toNat = 0
  /-- (b) -/
  kexp_eq : s.phase ≠ .unconf → s.kexp.toNat = kExp s.ncfg.toNat s.logn.toNat
  /-- The root was checked at construction (43_orchestrator.md R193). -/
  root_ok : s.phase ≠ .unconf → rootOk s.root s.nlen.toNat = true
  /-- (c) -/
  rowcnt_le : s.rowcnt.toNat ≤ s.ncfg.toNat
  /-- (c) -/
  fusion_lt : s.phase = .fusion → s.rowcnt.toNat < s.ncfg.toNat
  /-- (c) -/
  fused_eq : s.phase = .fused ∨ s.phase = .mutated ∨ s.phase = .done → s.rowcnt = s.ncfg
  /-- ROW has the elements in use and no other (10_state.md R62). -/
  row_length : s.row.length = s.nlen.toNat
  /-- PSI has the elements in use and no other (10_state.md R62). -/
  psi_length : s.psi.length = s.nlen.toNat
  /-- (f) -/
  err_iff : s.err = false ↔ s.errcode = .none
  /-- (f) -/
  no_err_cmd : s.err = false → s.faultcmd = 0
  /-- (g) -/
  busy_cdone : s.busy = true → s.cdone = false
  /-- Only SRESET is in flight while ERR = 1 (60_exceptions.md R251). -/
  busy_err : s.busy = true → s.err = true → s.lcmd = 0x3F
  /-- Earlier contents of MAT are kept only while a command is in flight (log 4). -/
  idle_old : s.busy = false → s.matOld = []
  /-- MAT is in canonical form. -/
  mat_wf : s.mat.wf
  /-- So are its earlier contents. -/
  old_wf : ∀ m ∈ s.matOld, m.wf

/-- A host program that has made a refused access has gone wrong (20_memory.md R79). -/
def hostWentWrong (s : State) : Prop := Reply.error ∈ s.replies

/-- Every matrix read is answered, with data or with an error (44_system.md R232). -/
def matAnswers (s : State) : Prop := ∀ a, matRead s a ≠ .silent

/-- Row i of the matrix with base `base` and dimension n reads as the entries `M` in columns below k. -/
def rowReads (s : State) (base : Word) (n i k : Nat) (M : Nat → Word) : Prop :=
  ∀ j < k, matRead s (matAddr base n i j) = .data (M j)

/-! ### What a command leaves alone -/

/-- The registers no command but SRESET writes, and what stands outside the block (10_state.md R31,
R32, R39 to R42; 20_memory.md R74). -/
structure SameOutside (s t : State) : Prop where
  opa : t.opa = s.opa
  opb : t.opb = s.opb
  ndim : t.ndim = s.ndim
  target : t.target = s.target
  mbase : t.mbase = s.mbase
  ie : t.ie = s.ie
  lcmd : t.lcmd = s.lcmd
  root : t.root = s.root
  mat : t.mat = s.mat
  inputs : t.inputs = s.inputs
  replies : t.replies = s.replies

/-- The fault record (60_exceptions.md R250). -/
def sameFaultRecord (s t : State) : Prop :=
  t.err = s.err ∧ t.errcode = s.errcode ∧ t.faultcmd = s.faultcmd

/-- What construction wrote (43_orchestrator.md R194). -/
def sameConfig (s t : State) : Prop :=
  t.ncfg = s.ncfg ∧ t.mcfg = s.mcfg ∧ t.nlen = s.nlen ∧ t.logn = s.logn ∧ t.kexp = s.kexp

/-- A command that completes without a fault leaves this of the state as its completion step does:
BUSY clear, CDONE set, no earlier contents of MAT (44_system.md R231). -/
def completed (s : State) : State := { s with busy := false, cdone := true, matOld := [] }

/-- A command that completes with a fault and has changed nothing else (60_exceptions.md R250, R252). -/
def completedFault (code : ErrCode) (s : State) : State :=
  { s with
    err := true
    errcode := code
    faultcmd := s.lcmd
    busy := false
    cdone := true
    matOld := [] }

/-- Commands completed one after the other, as a host that issues each and waits would. -/
def execAll : List Instr → State → Outcome
  | [], s => .next s
  | i :: rest, s =>
    match exec i s with
    | .next t => execAll rest t
    | r => r

/-! ### Tables of the spec -/

/-- The phases in which a command may run, as the table of 43_orchestrator.md R212 lists them. -/
def requiredPhases : Instr → List Phase
  | .nop | .modpow | .modinv | .sreset | .config _ | .compute _ =>
    [.unconf, .fusion, .fused, .mutated, .done]
  | .bitrev _ | .nttbf _ _ | .ntt _ _ | .fwht _ _ | .scale _ | .pmul =>
    [.fusion, .fused, .mutated, .done]
  | .encrow | .fuserow => [.fusion]
  | .mutate => [.fused]
  | .extract => [.mutated]

/-- A row of the opcode table (30_encoding.md R107). -/
structure TableRow where
  mnemonic : String
  pattern : CmdWord
  mask : CmdWord
  words : List CmdWord
deriving DecidableEq, Repr

/-- The opcode table (30_encoding.md R107). -/
def opcodeTable : List TableRow :=
  [⟨"NOP", 0x00000000, 0xFFFFFFFF, [0x000]⟩,
   ⟨"MODPOW", 0x00000001, 0xFFFFFFFF, [0x001]⟩,
   ⟨"MODINV", 0x00000002, 0xFFFFFFFF, [0x002]⟩,
   ⟨"BITREV", 0x00000010, 0xFFFFFEFF, [0x010, 0x110]⟩,
   ⟨"NTTBF", 0x00000011, 0xFFFFFCFF, [0x011, 0x111, 0x211, 0x311]⟩,
   ⟨"NTT", 0x00000012, 0xFFFFFCFF, [0x012, 0x112, 0x212, 0x312]⟩,
   ⟨"FWHT", 0x00000013, 0xFFFFFCFF, [0x013, 0x113, 0x213, 0x313]⟩,
   ⟨"SCALE", 0x00000014, 0xFFFFFEFF, [0x014, 0x114]⟩,
   ⟨"PMUL", 0x00000015, 0xFFFFFFFF, [0x015]⟩,
   ⟨"CONFIG", 0x00000020, 0xFFFFFBFF, [0x020, 0x420]⟩,
   ⟨"ENCROW", 0x00000021, 0xFFFFFFFF, [0x021]⟩,
   ⟨"FUSEROW", 0x00000022, 0xFFFFFFFF, [0x022]⟩,
   ⟨"MUTATE", 0x00000023, 0xFFFFFFFF, [0x023]⟩,
   ⟨"EXTRACT", 0x00000024, 0xFFFFFFFF, [0x024]⟩,
   ⟨"COMPUTE", 0x00000025, 0xFFFFFBFF, [0x025, 0x425]⟩,
   ⟨"SRESET", 0x0000003F, 0xFFFFFFFF, [0x03F]⟩]

/-- The fault codes a legal command can record (60_exceptions.md R240, the column "raised by"). -/
def raisedBy : Instr → List ErrCode
  | .nop | .modpow | .sreset => []
  | .modinv => [.invzero]
  | .config _ => [.precond]
  | .compute _ => [.precond, .materr]
  | .encrow | .fuserow => [.seq, .materr]
  | .bitrev _ | .nttbf _ _ | .ntt _ _ | .fwht _ _ | .scale _ | .pmul | .mutate | .extract => [.seq]

/-- The commands that construct a computation (43_orchestrator.md R194, R210). -/
def constructs : Instr → Bool
  | .config _ | .compute _ => true
  | .nop | .modpow | .modinv | .bitrev _ | .nttbf _ _ | .ntt _ _ | .fwht _ _ | .scale _ | .pmul
  | .encrow | .fuserow | .mutate | .extract | .sreset => false

/-- The commands that write a buffer (10_state.md R51, R52). -/
def writesBuf (b : Buf) : Instr → Bool
  | .config _ | .compute _ | .fuserow => true
  | .bitrev b' | .nttbf b' _ | .ntt b' _ | .fwht b' _ | .scale b' => b' == b
  | .encrow => b == .row
  | .pmul | .mutate | .extract => b == .psi
  | .nop | .modpow | .modinv | .sreset => false

/-- The commands that may emit events (60_exceptions.md R262). -/
def mayEmit : Instr → Bool
  | .config _ | .compute _ | .fuserow | .mutate | .extract => true
  | .nop | .modpow | .modinv | .bitrev _ | .nttbf _ _ | .ntt _ _ | .fwht _ _ | .scale _ | .pmul
  | .encrow | .sreset => false

/-! ### Closed forms -/

/-- The sum of 41_ntt.md R163 for index k: x[j] times the j·k-th power of W(2^m, d). -/
def fourierSum (g : Residue) (m : Nat) (d : Dir) (x : List Residue) (k : Nat) : Nat :=
  ∑ j ∈ Finset.range (2 ^ m), (elem x j).val * (stageTwiddle g (2 ^ m) d).val ^ (j * k)

/-- The number of one bits among the low m bits (00_scope.md R18). -/
def popcount (m v : Nat) : Nat := ((List.range m).filter fun b => v.testBit b).length

/-- The signed sum of 42_fwht.md R183 for index k. -/
def walshSum (m : Nat) (x : List Residue) (k : Nat) : Int :=
  ∑ j ∈ Finset.range (2 ^ m), (-1) ^ popcount m (j &&& k) * ((elem x j).val : Int)

/-- An integer modulo Q, Euclidean (00_scope.md R18). -/
def intResidue (z : Int) : Residue := toResidue (z % (Q : Int)).toNat

/-- Cyclic convolution (41_ntt.md R166). -/
def cyclicConv (N : Nat) (x y : List Residue) : List Residue :=
  (List.range N).map fun t =>
    toResidue (∑ a ∈ Finset.range N, ∑ b ∈ Finset.range N,
      if (a + b) % N = t then (elem x a).val * (elem y b).val else 0)

/-- XOR convolution (42_fwht.md R185). -/
def xorConv (N : Nat) (x y : List Residue) : List Residue :=
  (List.range N).map fun t =>
    toResidue (∑ a ∈ Finset.range N, ∑ b ∈ Finset.range N,
      if a ^^^ b = t then (elem x a).val * (elem y b).val else 0)

/-- The sum of the entries of row i that go to bucket t (43_orchestrator.md R200). -/
def bucketSum (i n N : Nat) (M : Nat → Word) (t : Nat) : Nat :=
  ∑ j ∈ Finset.range n, if bucket i j n N = t then (M j).toNat % Q else 0

/-- Rows 0 to r - 1 of an n × n matrix fused into a sequence of 2^m ones (43_orchestrator.md R209). -/
def fusedRows (g : Residue) (n m r : Nat) (M : Nat → Nat → Word) : List Residue :=
  (List.range r).foldl (fun psi i => fuseStep g i n m M psi) (List.replicate (2 ^ m) 1)

/-- The events of the first r fused rows (60_exceptions.md R262). -/
def rowEvents (r : Nat) : List Event :=
  (List.range r).map fun i => Event.rowDone (BitVec.ofNat 31 i)

/-- The events of one whole computation (43_orchestrator.md R210). -/
def computeEvents (n : Nat) : List Event :=
  rowEvents n ++ [.phaseDone .fusion, .phaseDone .mutation, .phaseDone .extraction]

/-- The matrix reads of the first r rows, in order (20_memory.md R85). -/
def matrixAddrs (base : Word) (n r : Nat) : List Word :=
  (List.range r).flatMap fun i => rowAddrs base n i n

end Sys2Proof.Machine
end

