-- ==== Sys2Proof/Certificates/Slice0/Obligations.lean ====
section
/-! DEFINITION. The statements for the provers, family by family in the order of spec/. -/

section
open Sys2Proof Sys2Proof.Machine

/-! ### Encoding -/

/-- Decoding and encoding agree: a 32-bit word decodes to a command exactly when it is that command's
word (30_encoding.md R107, R110). -/
def Obligations.DecodeIsExactlyEncode : Prop :=
  ∀ (w : CmdWord) (i : Instr), decode w = some i ↔ w = encode i

/-- A word matches a row of the opcode table exactly when it is one of its legal words, and then it
decodes to the row's command; there are sixteen rows and twenty-nine words (30_encoding.md R107). -/
def Obligations.OpcodeTableMatchesDecoder : Prop :=
  (∀ row ∈ opcodeTable, ∀ w : CmdWord,
    (w &&& row.mask = row.pattern ↔ w ∈ row.words) ∧
    (w ∈ row.words ↔ ∃ i, decode w = some i ∧ i.mnemonic = row.mnemonic)) ∧
  (∀ (w : CmdWord) (i : Instr), decode w = some i →
    ∃ row ∈ opcodeTable, w ∈ row.words ∧ i.mnemonic = row.mnemonic) ∧
  opcodeTable.length = 16 ∧
  (opcodeTable.flatMap TableRow.words).length = 29 ∧
  (opcodeTable.flatMap TableRow.words).Nodup

/-- A word is illegal exactly when its opcode is not assigned, a reserved bit is set, or a bit is set
that is no field of its format (30_encoding.md R108). -/
def Obligations.IllegalWordIffIllFormedFields : Prop :=
  ∀ w : CmdWord, decode w = none ↔
    (splitWord w).opcAssigned = false ∨ (splitWord w).rsvZero = false ∨
      (splitWord w).unusedZero = false

/-- Words written out from 30_encoding.md R107 and R111, one for each family and format. -/
def Obligations.DecodesWordsOfTheSpec : Prop :=
  decode 0x00000000 = some .nop ∧
  decode 0x00000001 = some .modpow ∧
  decode 0x00000110 = some (.bitrev .psi) ∧
  decode 0x00000211 = some (.nttbf .row .inverse) ∧
  decode 0x00000112 = some (.ntt .psi .forward) ∧
  decode 0x00000313 = some (.fwht .psi .inverse) ∧
  decode 0x00000420 = some (.config .target) ∧
  decode 0x00000022 = some .fuserow ∧
  decode 0x00000025 = some (.compute .square) ∧
  decode 0x0000003F = some .sreset ∧
  decode 0x0000013F = none

/-! ### The life of a command -/

/-- While BUSY = 1 and no move that is not held comes first, the next step is `exec` of the latched
command, in the state itself or in the state with the host's wait consumed (44_system.md R231, R238). -/
def Obligations.StepRunsTheDecodedCommand : Prop :=
  ∀ (s t : State) (i : Instr),
    s.busy = true → blockTurn s = some t → decode s.lcmd = some i →
      step s = exec i t ∧ (t = s ∨ ∃ rest, s.inputs = .wait :: rest ∧ t = { s with inputs := rest })

/-- An illegal word completes with ILLCMD and changes nothing else (60_exceptions.md R241). -/
def Obligations.IllegalWordCompletesWithFault : Prop :=
  ∀ s t : State,
    s.busy = true → blockTurn s = some t → decode s.lcmd = none →
      step s = .next { t with
        err := true
        errcode := .illcmd
        faultcmd := s.lcmd
        busy := false
        cdone := true
        matOld := [] }

/-- Where every matrix read is answered, the step in which the block has its turn completes the command
in flight, legal or not, in any phase (44_system.md R232). -/
def Obligations.IssuedCommandCompletes : Prop :=
  ∀ s u : State,
    s.busy = true → blockTurn s = some u → matAnswers s →
      ∃ t, step s = .next t ∧ t.busy = false ∧ t.cdone = true

/-- A matrix read that is never answered keeps the command from completing: the whole state stays as it
is (44_system.md R232; that nothing at all changes meanwhile is the model's choice, log 6). -/
def Obligations.UnansweredMatrixReadKeepsBusy : Prop :=
  (∀ (s : State) (c : Nat) (M : Nat → Word),
    s.phase = .fusion → c < s.ncfg.toNat →
    rowReads s s.mcfg s.ncfg.toNat s.rowcnt.toNat c M →
    matRead s (matAddr s.mcfg s.ncfg.toNat s.rowcnt.toNat c) = .silent →
      exec .encrow s = .next s ∧ exec .fuserow s = .next s) ∧
  (∀ (s : State) (z : SizeSel) (r c : Nat) (M : Nat → Nat → Word),
    0 ≤ dimension s → r < (dimension s).toNat → c < (dimension s).toNat →
    rootOk s.root (sizeN (sizeSource z (dimension s).toNat s)) = true →
    (∀ i < r, rowReads s s.mbase (dimension s).toNat i (dimension s).toNat (M i)) →
    rowReads s s.mbase (dimension s).toNat r c (M r) →
    matRead s (matAddr s.mbase (dimension s).toNat r c) = .silent →
      exec (.compute z) s = .next s)

/-- In a phase the table of 43_orchestrator.md R212 does not list for it, a command completes with SEQ
and changes nothing else; in a phase the table lists, it never raises SEQ. -/
def Obligations.PhaseTable : Prop :=
  ∀ (i : Instr) (s : State),
    (s.phase ∉ requiredPhases i → exec i s = .next (completedFault .seq s)) ∧
    (s.phase ∈ requiredPhases i → ∀ t, exec i s = .next t → t.errcode = .seq → s.errcode = .seq)

/-- A legal command leaves the fault record alone, or it is SRESET and clears it, or it records a code
that 60_exceptions.md R240 lists for it with its own word (R250); SEQ and PRECOND change nothing else
(R252). -/
def Obligations.FaultsAndTheirRaisers : Prop :=
  ∀ (i : Instr) (s t : State), exec i s = .next t →
    sameFaultRecord s t ∨
    (i = .sreset ∧ t.err = false ∧ t.errcode = .none ∧ t.faultcmd = 0) ∨
    (t.err = true ∧ t.errcode ∈ raisedBy i ∧ t.faultcmd = s.lcmd ∧
      (t.errcode = .seq ∨ t.errcode = .precond → t = completedFault t.errcode s))

/-- While ERR = 1 every step keeps the fault record, the registers, the buffers, PHASE and the trace,
and only reset or the completion of SRESET clears ERR (60_exceptions.md R251). -/
def Obligations.FaultIsSticky : Prop :=
  ∀ s t : State, StateInv s → s.err = true → step s = .next t →
    t = { s with
      ie := t.ie
      busy := t.busy
      cdone := t.cdone
      lcmd := t.lcmd
      mat := t.mat
      matOld := t.matOld
      inputs := t.inputs
      replies := t.replies
      freeCount := t.freeCount } ∨
    (t.err = false ∧
      ((∃ rest, s.inputs = .rst :: rest) ∨ (s.busy = true ∧ s.lcmd = 0x3F)))

/-- The phase transitions of 43_orchestrator.md R213: no command moves PHASE in any other way. -/
def Obligations.PhaseTransitions : Prop :=
  ∀ (i : Instr) (s t : State), exec i s = .next t →
    t.phase = s.phase ∨
    (i = .sreset ∧ t.phase = .unconf) ∨
    (∃ z, i = .config z ∧
      (t.ncfg.toNat = 0 ∧ t.phase = .fused ∨ 0 < t.ncfg.toNat ∧ t.phase = .fusion)) ∨
    (i = .fuserow ∧ s.phase = .fusion ∧ t.rowcnt = t.ncfg ∧ t.phase = .fused) ∨
    (i = .mutate ∧ s.phase = .fused ∧ t.phase = .mutated) ∨
    (i = .extract ∧ s.phase = .mutated ∧ t.phase = .done) ∨
    (∃ z, i = .compute z ∧
      (sameFaultRecord s t ∧ t.phase = .done ∨
        t.err = true ∧ t.errcode = .materr ∧ t.phase = .fusion))

/-- Which commands write which registers, buffers and events (10_state.md R31 to R34, R40 to R49, R51,
R52; 60_exceptions.md R262). No command but SRESET writes a register of the host, the root or MAT. -/
def Obligations.RegistersHaveTheirWriters : Prop :=
  ∀ (i : Instr) (s t : State), i ≠ .sreset → exec i s = .next t →
    SameOutside s t ∧
    (i ≠ .modpow → i ≠ .modinv → t.res = s.res) ∧
    (constructs i = false → sameConfig s t) ∧
    (constructs i = false → i ≠ .extract → t.result = s.result) ∧
    (constructs i = false → i ≠ .fuserow → t.rowcnt = s.rowcnt) ∧
    (writesBuf .row i = false → t.row = s.row) ∧
    (writesBuf .psi i = false → t.psi = s.psi) ∧
    (∃ ev, t.trace = s.trace ++ ev ∧ (mayEmit i = false → ev = []))

/-! ### The primitive units -/

/-- The three residue operations, exact and Euclidean (40_modular_arithmetic.md R130, R131). -/
def Obligations.ResidueOperations : Prop :=
  ∀ u v : Residue,
    (addMod u v).val = (u.val + v.val) % Q ∧
    ((subMod u v).val : Int) = ((u.val : Int) - v.val) % Q ∧
    (mulMod u v).val = (u.val * v.val) % Q

/-- Binary exponentiation computes the power, with x^0 = 1 also for x = 0
(40_modular_arithmetic.md R133). -/
def Obligations.BinaryExponentiationIsPower : Prop :=
  (∀ b e : Nat, (modPow b e).val = (b % Q) ^ e % Q) ∧
  (∀ b : Nat, (modPow b 0).val = 1 ∧ (modPow b 1).val = b % Q) ∧
  (∀ b e : Nat, 1 ≤ e → b % Q = 0 → (modPow b e).val = 0)

/-- MODPOW completes in every state and every phase, for every pair of operands, and writes RES only
(40_modular_arithmetic.md R135). -/
def Obligations.ModpowCompletes : Prop :=
  ∀ s : State,
    exec .modpow s =
      .next (completed { s with res := toResidue ((s.opa.toNat % Q) ^ s.opb.toNat) })

/-- ModInv inverts every number that Q does not divide, and is its own inverse function
(40_modular_arithmetic.md R139). -/
def Obligations.FermatInverse : Prop :=
  (∀ a : Nat, 1 ≤ a → a < Q → mulMod (modPow a 1) (modInv a) = 1) ∧
  (∀ a : Nat, a % Q ≠ 0 → (modInv (modInv a).val).val = a % Q)

/-- MODINV writes the inverse of OPA to RES and nothing else; where Q divides OPA it writes 0 and raises
INVZERO (40_modular_arithmetic.md R138, 60_exceptions.md R245). -/
def Obligations.ModinvCompletesOrFaults : Prop :=
  ∀ s : State,
    (s.opa.toNat % Q ≠ 0 →
      ∃ r : Residue, (s.opa.toNat * r.val) % Q = 1 ∧
        exec .modinv s = .next (completed { s with res := r })) ∧
    (s.opa.toNat % Q = 0 →
      exec .modinv s = .next (completedFault .invzero { s with res := 0 }))

/-! ### The NTT engine -/

/-- Rev(m, i) is i with its m low bits read backwards, a permutation that is its own inverse
(41_ntt.md R151). -/
def Obligations.BitReversalIndex : Prop :=
  (∀ m i : Nat, i < 2 ^ m →
    rev m i < 2 ^ m ∧ rev m (rev m i) = i ∧
    ∀ b < m, (rev m i).testBit b = i.testBit (m - 1 - b)) ∧
  (List.range 1).map (rev 0) = [0] ∧
  (List.range 2).map (rev 1) = [0, 1] ∧
  (List.range 4).map (rev 2) = [0, 2, 1, 3] ∧
  (List.range 8).map (rev 3) = [0, 4, 2, 6, 1, 5, 3, 7] ∧
  (List.range 16).map (rev 4) = [0, 8, 4, 12, 2, 10, 6, 14, 1, 9, 5, 13, 3, 11, 7, 15]

/-- The incremental bit flip takes Rev(m, i - 1) to Rev(m, i) (41_ntt.md R152). -/
def Obligations.IncrementalBitFlip : Prop :=
  ∀ m i : Nat, 0 < i → i < 2 ^ m → bitFlip m (2 ^ (m - 1)) (rev m (i - 1)) = rev m i

/-- BITREV moves element i of the selected buffer to place Rev(m, i) and changes nothing else
(41_ntt.md R153). -/
def Obligations.BitrevCompletes : Prop :=
  ∀ (s : State) (b : Buf),
    s.phase ≠ .unconf → s.nlen.toNat = 2 ^ s.logn.toNat → (getBuf b s).length = s.nlen.toNat →
      ∃ y : List Residue, y.length = s.nlen.toNat ∧
        (∀ i < s.nlen.toNat, elem y (rev s.logn.toNat i) = elem (getBuf b s) i) ∧
        exec (.bitrev b) s = .next (completed (setBuf b y s))

/-- One butterfly stage of block size L = 2^(s+1): in the k-th block, at inner step j, the pair L/2
apart is combined with the j-th power of the stage twiddle (41_ntt.md R155 to R158). -/
def Obligations.NttStageButterflies : Prop :=
  ∀ (g : Residue) (d : Dir) (m s : Nat) (a : List Residue), s < m → a.length = 2 ^ m →
    (nttStage g d m s a).length = 2 ^ m ∧
    ∀ k < 2 ^ (m - (s + 1)), ∀ j < 2 ^ s,
      let lo := k * 2 ^ (s + 1) + j
      let v := mulMod (elem a (lo + 2 ^ s)) (toResidue ((stageTwiddle g (2 ^ (s + 1)) d).val ^ j))
      elem (nttStage g d m s a) lo = addMod (elem a lo) v ∧
      elem (nttStage g d m s a) (lo + 2 ^ s) = subMod (elem a lo) v

/-- NTTBF runs the stages of block sizes 2, 4, .. 2^LOGN on the selected buffer, in rising order, and
changes nothing else (41_ntt.md R157, R159). -/
def Obligations.NttbfCompletes : Prop :=
  ∀ (s : State) (b : Buf) (d : Dir), s.phase ≠ .unconf →
    exec (.nttbf b d) s = .next (completed (setBuf b
      ((List.range s.logn.toNat).foldl (fun a k => nttStage s.root d s.logn.toNat k a) (getBuf b s))
      s))

/-- SCALE divides every element of the selected buffer by N modulo Q and changes nothing else
(41_ntt.md R160). -/
def Obligations.ScaleCompletes : Prop :=
  ∀ (s : State) (b : Buf), s.phase ≠ .unconf → s.nlen.toNat = 2 ^ s.logn.toNat →
    ∃ y : List Residue, y.length = (getBuf b s).length ∧
      (∀ t < y.length, ((elem y t).val * s.nlen.toNat) % Q = (elem (getBuf b s) t).val) ∧
      exec (.scale b) s = .next (completed (setBuf b y s))

/-- NTT leaves NttSeq of the selected buffer and changes nothing else; it is the commands BITREV, NTTBF
and, when inverse, SCALE one after the other (41_ntt.md R161, R162). -/
def Obligations.NttCompletes : Prop :=
  ∀ (s : State) (b : Buf) (d : Dir), s.phase ≠ .unconf → s.nlen.toNat = 2 ^ s.logn.toNat →
    exec (.ntt b d) s =
      .next (completed (setBuf b (nttSeq s.root s.logn.toNat d (getBuf b s)) s)) ∧
    exec (.ntt b d) s = execAll
      (match d with
        | .forward => [.bitrev b, .nttbf b .forward]
        | .inverse => [.bitrev b, .nttbf b .inverse, .scale b]) s

/-- The closed form of the transform in both directions, for every root construction accepts
(41_ntt.md R163). -/
def Obligations.NttClosedForm : Prop :=
  ∀ (g : Residue) (m : Nat) (x : List Residue), rootOk g (2 ^ m) = true → x.length = 2 ^ m →
    (∀ k < 2 ^ m,
      elem (nttSeq g m .forward x) k = toResidue (fourierSum g m .forward x k) ∧
      elem (nttSeq g m .inverse x) k =
        mulMod (modInv (2 ^ m)) (toResidue (fourierSum g m .inverse x k))) ∧
    (1 ≤ m → mulMod (stageTwiddle g (2 ^ m) .forward) (stageTwiddle g (2 ^ m) .inverse) = 1)

/-- The transform and its inverse undo each other, in both orders (41_ntt.md R164). -/
def Obligations.NttRoundTrip : Prop :=
  ∀ (g : Residue) (m : Nat) (x : List Residue), rootOk g (2 ^ m) = true → x.length = 2 ^ m →
    nttSeq g m .inverse (nttSeq g m .forward x) = x ∧
    nttSeq g m .forward (nttSeq g m .inverse x) = x

/-- The elementwise product of two transforms is the transform of the cyclic convolution
(41_ntt.md R166). -/
def Obligations.CyclicConvolution : Prop :=
  ∀ (g : Residue) (m : Nat) (x y : List Residue),
    rootOk g (2 ^ m) = true → x.length = 2 ^ m → y.length = 2 ^ m →
      mulSeq (nttSeq g m .forward x) (nttSeq g m .forward y) =
        nttSeq g m .forward (cyclicConv (2 ^ m) x y)

/-! ### The FWHT engine -/

/-- FWHT leaves FwhtSeq of the selected buffer and changes nothing else (42_fwht.md R181, R182). -/
def Obligations.FwhtCompletes : Prop :=
  ∀ (s : State) (b : Buf) (d : Dir), s.phase ≠ .unconf → s.nlen.toNat = 2 ^ s.logn.toNat →
    exec (.fwht b d) s =
      .next (completed (setBuf b (fwhtSeq s.logn.toNat d (getBuf b s)) s))

/-- The closed form of the transform in both directions; element 0 of the inverse is the mean
(42_fwht.md R183). -/
def Obligations.FwhtClosedForm : Prop :=
  ∀ (m : Nat) (x : List Residue), x.length = 2 ^ m →
    (∀ k < 2 ^ m,
      elem (fwhtSeq m .forward x) k = intResidue (walshSum m x k) ∧
      elem (fwhtSeq m .inverse x) k = mulMod (modInv (2 ^ m)) (intResidue (walshSum m x k))) ∧
    elem (fwhtSeq m .inverse x) 0 = mulMod (modInv (2 ^ m)) (toResidue (x.map Fin.val).sum)

/-- The transform and its inverse undo each other, in both orders, and the forward transform twice
multiplies by N (42_fwht.md R184). -/
def Obligations.FwhtRoundTrip : Prop :=
  ∀ (m : Nat) (x : List Residue), x.length = 2 ^ m →
    fwhtSeq m .inverse (fwhtSeq m .forward x) = x ∧
    fwhtSeq m .forward (fwhtSeq m .inverse x) = x ∧
    fwhtSeq m .forward (fwhtSeq m .forward x) = x.map fun e => mulMod (toResidue (2 ^ m)) e

/-- The elementwise product of two transforms is the transform of the XOR convolution
(42_fwht.md R185). -/
def Obligations.XorConvolution : Prop :=
  ∀ (m : Nat) (x y : List Residue), x.length = 2 ^ m → y.length = 2 ^ m →
    mulSeq (fwhtSeq m .forward x) (fwhtSeq m .forward y) =
      fwhtSeq m .forward (xorConv (2 ^ m) x y)

/-! ### The orchestrator -/

/-- The transform length is the least power of two not below max(1, min(src, 16384))
(43_orchestrator.md R191). -/
def Obligations.SizingRule : Prop :=
  ∀ src : Nat, ∃ m ≤ 14,
    sizeLog src = m ∧ sizeN src = 2 ^ m ∧ max 1 (min src 16384) ≤ 2 ^ m ∧
    ∀ p, max 1 (min src 16384) ≤ 2 ^ p → 2 ^ m ≤ 2 ^ p

/-- The mutation exponent is the exact ceiling of n · m · 6/5 (43_orchestrator.md R192). -/
def Obligations.MutationExponent : Prop :=
  (∀ n m : Nat, (kExp n m : Int) = ⌈(n : ℚ) * m * (6 / 5)⌉ ∧ kExp n m = (6 * n * m + 4) / 5) ∧
  kExp 4 4 = 20 ∧
  (∀ n, kExp n 0 = 0 ∧ kExp 0 n = 0)

/-- CONFIG, for every dimension that is not negative and a root that suits the length, constructs the
computation and changes nothing else; with n = 0 it enters FUSED (43_orchestrator.md R194). -/
def Obligations.ConfigCompletes : Prop :=
  ∀ (s : State) (z : SizeSel), 0 ≤ dimension s →
    rootOk s.root (sizeN (sizeSource z (dimension s).toNat s)) = true →
      let n := (dimension s).toNat
      let m := sizeLog (sizeSource z n s)
      ∃ u : State, exec (.config z) s = .next (completed u) ∧
        u.ncfg.toNat = n ∧ u.nlen.toNat = 2 ^ m ∧ u.logn.toNat = m ∧ u.kexp.toNat = kExp n m ∧
        u = { s with
          ncfg := u.ncfg
          mcfg := s.mbase
          nlen := u.nlen
          logn := u.logn
          kexp := u.kexp
          rowcnt := 0
          result := 0
          row := List.replicate (2 ^ m) 0
          psi := List.replicate (2 ^ m) 1
          phase := if n = 0 then .fused else .fusion
          trace := if n = 0 then s.trace ++ [.phaseDone .fusion] else s.trace }

/-- A negative dimension, or a root that does not suit the length, makes CONFIG and COMPUTE fault with
PRECOND and change nothing else; the default root, the model's presumed 3 (log 1), suits every length
(43_orchestrator.md R193, 60_exceptions.md R243). -/
def Obligations.ConstructionPreconditionFaults : Prop :=
  (∀ (s : State) (z : SizeSel),
    (dimension s < 0 ∨ rootOk s.root (sizeN (sizeSource z (dimension s).toNat s)) = false) →
      exec (.config z) s = .next (completedFault .precond s) ∧
      exec (.compute z) s = .next (completedFault .precond s)) ∧
  (∀ m ≤ 14, rootOk Config.defaultRoot (2 ^ m) = true)

/-- ENCROW reads the n entries of row ROWCNT once each in rising order and leaves in ROW, at each index,
the sum modulo Q of the entries whose bucket it is; it changes nothing else (43_orchestrator.md R197,
R200; 20_memory.md R84, R85). -/
def Obligations.EncrowCompletes : Prop :=
  ∀ (s : State) (M : Nat → Word),
    s.phase = .fusion →
    rowReads s s.mcfg s.ncfg.toNat s.rowcnt.toNat s.ncfg.toNat M →
      (∀ j, (matAddr s.mcfg s.ncfg.toNat s.rowcnt.toNat j).toNat =
        (s.mcfg.toNat + s.rowcnt.toNat * s.ncfg.toNat + j) % 2 ^ 64) ∧
      ∃ buf : List Residue, buf.length = s.nlen.toNat ∧
        (∀ t < s.nlen.toNat,
          elem buf t = toResidue (bucketSum s.rowcnt.toNat s.ncfg.toNat s.nlen.toNat M t)) ∧
        exec .encrow s = .next (completed { s with
          row := buf
          matReads := s.matReads ++
            (List.range s.ncfg.toNat).map (matAddr s.mcfg s.ncfg.toNat s.rowcnt.toNat) })

/-- An error at column c of the row makes ENCROW and FUSEROW fault with MATERR after the read of that
column: ROW holds unspecified residues, and nothing else of the block has changed
(60_exceptions.md R246). That the two commands, failing from one state, leave the same residues is no
rule of the spec: R246 leaves it open, and it is the model's choice (log 5). -/
def Obligations.MatrixErrorFaults : Prop :=
  ∀ (s : State) (c : Nat) (M : Nat → Word),
    s.phase = .fusion → c < s.ncfg.toNat →
    rowReads s s.mcfg s.ncfg.toNat s.rowcnt.toNat c M →
    matRead s (matAddr s.mcfg s.ncfg.toNat s.rowcnt.toNat c) = .error →
      ∃ row : List Residue, row.length = s.nlen.toNat ∧
        ∀ i, i = .encrow ∨ i = .fuserow →
          exec i s = .next (completedFault .materr { s with
            row := row
            freeCount := s.freeCount + 1
            matReads := s.matReads ++
              (List.range (c + 1)).map (matAddr s.mcfg s.ncfg.toNat s.rowcnt.toNat) })

/-- PMUL multiplies PSI elementwise by ROW and changes nothing else (43_orchestrator.md R199). -/
def Obligations.PmulCompletes : Prop :=
  ∀ s : State, s.phase ≠ .unconf → s.row.length = s.nlen.toNat → s.psi.length = s.nlen.toNat →
    ∃ y : List Residue, y.length = s.nlen.toNat ∧
      (∀ t < s.nlen.toNat, (elem y t).val = ((elem s.psi t).val * (elem s.row t).val) % Q) ∧
      exec .pmul s = .next (completed { s with psi := y })

/-- FUSEROW encodes row ROWCNT, transforms it, multiplies it into PSI, counts it, and after the last row
enters FUSED; it changes nothing else (43_orchestrator.md R200, R201). -/
def Obligations.FuserowCompletes : Prop :=
  ∀ (s : State) (M : Nat → Nat → Word),
    s.phase = .fusion → s.nlen.toNat = 2 ^ s.logn.toNat → s.rowcnt.toNat < s.ncfg.toNat →
    rowReads s s.mcfg s.ncfg.toNat s.rowcnt.toNat s.ncfg.toNat (M s.rowcnt.toNat) →
      let i := s.rowcnt.toNat
      let n := s.ncfg.toNat
      exec .fuserow s = .next (completed { s with
        row := nttSeq s.root s.logn.toNat .forward (encodeRow i n s.nlen.toNat (M i))
        psi := fuseStep s.root i n s.logn.toNat M s.psi
        rowcnt := BitVec.ofNat 31 (i + 1)
        phase := if i + 1 = n then .fused else .fusion
        trace := s.trace ++ .rowDone s.rowcnt :: (if i + 1 = n then [.phaseDone .fusion] else [])
        matReads := s.matReads ++ (List.range n).map (matAddr s.mcfg n i) })

/-- MUTATE raises every element of PSI to the power KEXP, also for KEXP = 0, and changes nothing else
but PHASE and the trace (43_orchestrator.md R204 to R206). -/
def Obligations.MutateCompletes : Prop :=
  ∀ s : State, s.phase = .fused →
    exec .mutate s = .next (completed { s with
      psi := s.psi.map fun e => toResidue (e.val ^ s.kexp.toNat)
      phase := .mutated
      trace := s.trace ++ [.phaseDone .mutation] })

/-- EXTRACT leaves the inverse FWHT in PSI and the mean of PSI in RESULT, and changes nothing else but
PHASE and the trace (43_orchestrator.md R207, R208). -/
def Obligations.ExtractCompletes : Prop :=
  ∀ s : State,
    s.phase = .mutated → s.nlen.toNat = 2 ^ s.logn.toNat → s.psi.length = s.nlen.toNat →
      exec .extract s = .next (completed { s with
        psi := fwhtSeq s.logn.toNat .inverse s.psi
        result := mulMod (modInv s.nlen.toNat) (toResidue (s.psi.map Fin.val).sum)
        phase := .done
        trace := s.trace ++ [.phaseDone .extraction] })

/-- COMPUTE completes with RESULT = Pipeline(n, SizeSource(T, n), M), the registers of construction, the
n·n reads in order and the events of R210 (43_orchestrator.md R209, R210; 20_memory.md R85). -/
def Obligations.ComputeIsPipeline : Prop :=
  ∀ (s : State) (z : SizeSel) (M : Nat → Nat → Word), 0 ≤ dimension s →
    rootOk s.root (sizeN (sizeSource z (dimension s).toNat s)) = true →
    (∀ i < (dimension s).toNat,
      rowReads s s.mbase (dimension s).toNat i (dimension s).toNat (M i)) →
      let n := (dimension s).toNat
      let src := sizeSource z n s
      ∃ u : State, exec (.compute z) s = .next (completed u) ∧
        u.ncfg.toNat = n ∧ u.nlen.toNat = sizeN src ∧ u.logn.toNat = sizeLog src ∧
        u.kexp.toNat = kExp n (sizeLog src) ∧ u.row.length = sizeN src ∧
        u = { s with
          ncfg := u.ncfg
          mcfg := s.mbase
          nlen := u.nlen
          logn := u.logn
          kexp := u.kexp
          rowcnt := u.ncfg
          row := u.row
          psi := pipelineSeq s.root n src M
          result := pipeline s.root n src M
          phase := .done
          trace := s.trace ++ computeEvents n
          matReads := s.matReads ++ matrixAddrs s.mbase n n }

/-- COMPUTE leaves exactly what CONFIG, n times FUSEROW, MUTATE and EXTRACT as separate commands leave,
where the matrix is stable and read without error (43_orchestrator.md R210). -/
def Obligations.ComputeIsTheCommandSequence : Prop :=
  ∀ (s : State) (z : SizeSel) (M : Nat → Nat → Word), s.matOld = [] → 0 ≤ dimension s →
    rootOk s.root (sizeN (sizeSource z (dimension s).toNat s)) = true →
    (∀ i < (dimension s).toNat,
      rowReads s s.mbase (dimension s).toNat i (dimension s).toNat (M i)) →
      exec (.compute z) s = execAll
        (.config z :: (List.replicate (dimension s).toNat .fuserow ++ [.mutate, .extract])) s

/-- A matrix error in row r makes COMPUTE fault with MATERR: the construction and the rows before r have
taken effect, ROWCNT = r, PHASE = FUSION, and ROW holds unspecified residues
(43_orchestrator.md R210, 60_exceptions.md R246). -/
def Obligations.ComputeMatrixErrorFaults : Prop :=
  ∀ (s : State) (z : SizeSel) (r c : Nat) (M : Nat → Nat → Word),
    0 ≤ dimension s → r < (dimension s).toNat → c < (dimension s).toNat →
    rootOk s.root (sizeN (sizeSource z (dimension s).toNat s)) = true →
    (∀ i < r, rowReads s s.mbase (dimension s).toNat i (dimension s).toNat (M i)) →
    rowReads s s.mbase (dimension s).toNat r c (M r) →
    matRead s (matAddr s.mbase (dimension s).toNat r c) = .error →
      let n := (dimension s).toNat
      let m := sizeLog (sizeSource z n s)
      ∃ u : State, exec (.compute z) s = .next (completedFault .materr u) ∧
        u.ncfg.toNat = n ∧ u.nlen.toNat = 2 ^ m ∧ u.logn.toNat = m ∧ u.kexp.toNat = kExp n m ∧
        u.rowcnt.toNat = r ∧ u.row.length = 2 ^ m ∧
        u = { s with
          ncfg := u.ncfg
          mcfg := s.mbase
          nlen := u.nlen
          logn := u.logn
          kexp := u.kexp
          rowcnt := u.rowcnt
          row := u.row
          psi := fusedRows s.root n m r M
          result := 0
          phase := .fusion
          trace := s.trace ++ rowEvents r
          freeCount := s.freeCount + 1
          matReads := s.matReads ++ matrixAddrs s.mbase n r ++
            (List.range (c + 1)).map (matAddr s.mbase n r) }

/-- The edge cases of a whole computation: n = 0 and every 1 × 1 matrix give 1, a zero matrix of
dimension at least 2 gives 0, n at least 129 clamps the length to 16384 (43_orchestrator.md R211). -/
def Obligations.DegenerateComputations : Prop :=
  (∀ (s : State) (z : SizeSel), dimension s = 0 →
    rootOk s.root (sizeN (sizeSource z 0 s)) = true →
      ∃ t, exec (.compute z) s = .next t ∧ t.result = 1 ∧ sameFaultRecord s t ∧
        t.psi = 1 :: List.replicate (sizeN (sizeSource z 0 s) - 1) 0) ∧
  (∀ (s : State) (e : Word), dimension s = 1 → matRead s s.mbase = .data e →
    ∃ t, exec (.compute .square) s = .next t ∧ t.result = 1 ∧ sameFaultRecord s t) ∧
  (∀ s : State, 2 ≤ dimension s →
    rootOk s.root (sizeN (sizeSource .square (dimension s).toNat s)) = true →
    (∀ i < (dimension s).toNat,
      rowReads s s.mbase (dimension s).toNat i (dimension s).toNat fun _ => 0) →
      ∃ t, exec (.compute .square) s = .next t ∧ t.result = 0 ∧ sameFaultRecord s t) ∧
  (∀ s : State, 129 ≤ dimension s → sizeN (sizeSource .square (dimension s).toNat s) = 16384)

/-- Two computations of equal dimension, target, root and matrix give equal NLEN, LOGN, KEXP, PSI,
RESULT and events, whatever ran before them and wherever the matrix lies (43_orchestrator.md R214). -/
def Obligations.ComputeIsDeterministic : Prop :=
  ∀ (s s' : State) (z : SizeSel) (M : Nat → Nat → Word),
    s'.ndim = s.ndim → s'.target = s.target → s'.root = s.root → 0 ≤ dimension s →
    rootOk s.root (sizeN (sizeSource z (dimension s).toNat s)) = true →
    (∀ i < (dimension s).toNat,
      rowReads s s.mbase (dimension s).toNat i (dimension s).toNat (M i)) →
    (∀ i < (dimension s).toNat,
      rowReads s' s'.mbase (dimension s).toNat i (dimension s).toNat (M i)) →
      ∃ (t t' : State) (ev : List Event),
        exec (.compute z) s = .next t ∧ exec (.compute z) s' = .next t' ∧
        t.nlen = t'.nlen ∧ t.logn = t'.logn ∧ t.kexp = t'.kexp ∧ t.psi = t'.psi ∧
        t.result = t'.result ∧ t.trace = s.trace ++ ev ∧ t'.trace = s'.trace ++ ev

/-- Two columns of one row share a bucket exactly when they differ by a multiple of N, and where n² ≤ N
all entries of the matrix have buckets of their own (43_orchestrator.md R196, R198). -/
def Obligations.IndexCollisions : Prop :=
  (∀ i n m j j' : Nat,
    bucket i j n (2 ^ m) = bucket i j' n (2 ^ m) ↔ j % 2 ^ m = j' % 2 ^ m) ∧
  (∀ n m i i' j j' : Nat, n * n ≤ 2 ^ m → i < n → i' < n → j < n → j' < n →
    bucket i j n (2 ^ m) = bucket i' j' n (2 ^ m) → i = i' ∧ j = j')

/-! ### System commands and reset -/

/-- NOP completes in every state and changes BUSY and CDONE only (44_system.md R231, R234). -/
def Obligations.NopCompletes : Prop :=
  ∀ s : State,
    exec .nop s = .next { s with busy := false, cdone := true, matOld := [] }

/-- SRESET completes in every state, and the reset input takes effect in every state, also while
BUSY = 1; both leave the values of 10_state.md R61 and differ in CDONE only (44_system.md R236,
70_reset_and_hazards.md R281 to R284). LCMD, which no rule fixes, is left open. -/
def Obligations.SresetAndRst : Prop :=
  ∀ s : State, ∃ l : CmdWord,
    let afterReset (done : Bool) (ins : List Move) : State :=
      { opa := 0, opb := 0, res := 0, ndim := 0, target := 0, mbase := 0, ncfg := 0, mcfg := 0,
        nlen := 0, logn := 0, kexp := 0, rowcnt := 0, result := 0, faultcmd := 0, busy := false,
        err := false, cdone := done, errcode := .none, phase := .unconf, ie := false, row := [],
        psi := [], trace := [], lcmd := l, root := s.root, mat := s.mat, matOld := [],
        matReads := s.matReads, inputs := ins, replies := s.replies, freeCount := s.freeCount }
    exec .sreset s = .next (afterReset true s.inputs) ∧
    ∀ rest, s.inputs = .rst :: rest → step s = .next (afterReset false rest)

/-! ### The host bus -/

/-- The address map of the block's window at its aligned offsets (20_memory.md R71 to R73, R81). -/
def Obligations.AddressMapOfTheWindow : Prop :=
  (∀ p ∈ [(0x00, Reg.id), (0x08, Reg.cmd), (0x10, Reg.status), (0x18, Reg.ctrl), (0x20, Reg.opa),
      (0x28, Reg.opb), (0x30, Reg.res), (0x38, Reg.ndim), (0x40, Reg.target), (0x48, Reg.mbase),
      (0x50, Reg.ncfg), (0x58, Reg.mcfg), (0x60, Reg.nlen), (0x68, Reg.logn), (0x70, Reg.kexp),
      (0x78, Reg.rowcnt), (0x80, Reg.result), (0x88, Reg.faultcmd), (0x90, Reg.qmod),
      (0x98, Reg.root)], placeOf p.1 = some (.reg p.2)) ∧
  (∀ off, 0xA0 ≤ off → off < 0x20000 → placeOf off = none) ∧
  (∀ t < 16384, placeOf (0x20000 + 8 * t) = some (.elem .row t) ∧
    placeOf (0x40000 + 8 * t) = some (.elem .psi t))

/-- The fields of STATUS, its reserved bits, and the outputs `irq` and `busy` (10_state.md R38, R48, R60;
60_exceptions.md R240, R255). -/
def Obligations.StatusWordAndInterrupt : Prop :=
  ∀ s : State,
    (statusWord s).getLsbD 0 = s.busy ∧
    ((statusWord s).getLsbD 1 = true ↔ s.phase ≠ .unconf) ∧
    ((statusWord s).getLsbD 2 = true ↔ s.phase = .done) ∧
    (statusWord s).getLsbD 3 = s.err ∧
    (statusWord s).getLsbD 4 = s.cdone ∧
    (statusWord s).extractLsb' 5 3 = 0 ∧
    (statusWord s).extractLsb' 8 3 =
      (match s.phase with
        | .unconf => 0
        | .fusion => 1
        | .fused => 2
        | .mutated => 3
        | .done => 4) ∧
    (statusWord s).extractLsb' 11 5 = 0 ∧
    (statusWord s).extractLsb' 16 8 =
      (match s.errcode with
        | .none => 0
        | .illcmd => 1
        | .seq => 2
        | .precond => 3
        | .invzero => 4
        | .materr => 5) ∧
    (statusWord s).extractLsb' 24 40 = 0 ∧
    (irq s = true ↔ s.ie = true ∧ s.cdone = true) ∧
    busyOut s = s.busy

/-- What a 64-bit host write does at every offset of the window while BUSY = 0: which data and states
admit it, what it stores, and that a refused one changes nothing but the host's answers
(20_memory.md R78, R79, R82; 44_system.md R237). -/
def Obligations.HostWriteTable : Prop :=
  ∀ (s : State) (off : Nat) (v : Word) (rest : List Move),
    s.busy = false → s.inputs = .write off 64 v :: rest →
      let admitted (t : State) : Prop :=
        step s = .next { t with inputs := rest, replies := s.replies ++ [.ok] }
      let refused : Prop :=
        step s = .next { s with inputs := rest, replies := s.replies ++ [.error] }
      (off = 0x08 →
        if v.toNat < 2 ^ 32 ∧ (s.err = false ∨ v = 0x3F) then
          admitted { s with lcmd := v.setWidth 32, busy := true, cdone := false }
        else refused) ∧
      (off = 0x10 →
        if v = 0 then admitted s
        else if v = 0x10 then admitted { s with cdone := false }
        else refused) ∧
      (off = 0x18 →
        if v = 0 then admitted { s with ie := false }
        else if v = 1 then admitted { s with ie := true }
        else refused) ∧
      (off = 0x20 → if s.err = false then admitted { s with opa := v } else refused) ∧
      (off = 0x28 → if s.err = false then admitted { s with opb := v } else refused) ∧
      (off = 0x38 →
        if s.err = false ∧ v.toNat < 2 ^ 32 then admitted { s with ndim := v.setWidth 32 }
        else refused) ∧
      (off = 0x40 → if s.err = false then admitted { s with target := v } else refused) ∧
      (off = 0x48 → if s.err = false then admitted { s with mbase := v } else refused) ∧
      (∀ t < 16384, off = 0x20000 + 8 * t →
        if s.err = false ∧ s.phase ≠ .unconf ∧ t < s.nlen.toNat ∧ v.toNat < Q then
          admitted { s with row := s.row.set t (toResidue v.toNat) }
        else refused) ∧
      (∀ t < 16384, off = 0x40000 + 8 * t →
        if s.err = false ∧ s.phase ≠ .unconf ∧ t < s.nlen.toNat ∧ v.toNat < Q then
          admitted { s with psi := s.psi.set t (toResidue v.toNat) }
        else refused) ∧
      (off < 0x60000 → (off % 8 ≠ 0 ∨ off < 0x20000) →
        off ∉ [0x08, 0x10, 0x18, 0x20, 0x28, 0x38, 0x40, 0x48] → refused)

/-- What a 64-bit host read returns at every offset of the window while BUSY = 0; no read changes
anything but the host's answers (20_memory.md R78, R79, R82, R93; 10_state.md R31 to R49, R55, R59). -/
def Obligations.HostReadTable : Prop :=
  ∀ (s : State) (off : Nat) (rest : List Move),
    s.busy = false → s.inputs = .read off 64 :: rest →
      let gives (v : Nat) : Prop :=
        step s = .next
          { s with inputs := rest, replies := s.replies ++ [.data (BitVec.ofNat 64 v)] }
      let refused : Prop :=
        step s = .next { s with inputs := rest, replies := s.replies ++ [.error] }
      (off = 0x00 → gives 0x0000000144464D45) ∧
      (off = 0x10 → gives (statusWord s).toNat) ∧
      (off = 0x18 → gives (if s.ie then 1 else 0)) ∧
      (off = 0x20 → gives s.opa.toNat) ∧
      (off = 0x28 → gives s.opb.toNat) ∧
      (off = 0x30 → gives s.res.val) ∧
      (off = 0x38 → gives s.ndim.toNat) ∧
      (off = 0x40 → gives s.target.toNat) ∧
      (off = 0x48 → gives s.mbase.toNat) ∧
      (off = 0x50 → gives s.ncfg.toNat) ∧
      (off = 0x58 → gives s.mcfg.toNat) ∧
      (off = 0x60 → gives s.nlen.toNat) ∧
      (off = 0x68 → gives s.logn.toNat) ∧
      (off = 0x70 → gives s.kexp.toNat) ∧
      (off = 0x78 → gives s.rowcnt.toNat) ∧
      (off = 0x80 → gives s.result.val) ∧
      (off = 0x88 → gives s.faultcmd.toNat) ∧
      (off = 0x90 → gives 998244353) ∧
      (off = 0x98 → gives s.root.val) ∧
      (∀ t < 16384, off = 0x20000 + 8 * t →
        if s.phase ≠ .unconf ∧ t < s.nlen.toNat then gives (elem s.row t).val else refused) ∧
      (∀ t < 16384, off = 0x40000 + 8 * t →
        if s.phase ≠ .unconf ∧ t < s.nlen.toNat then gives (elem s.psi t).val else refused) ∧
      (off < 0x60000 → (off % 8 ≠ 0 ∨ 0xA0 ≤ off ∧ off < 0x20000 ∨ off = 0x08) → refused)

/-- While BUSY = 1 a read of STATUS is answered at once and every other access to the window is held:
the block takes its own step first and the access stays the next move. While BUSY = 0 an access that is
not 64 bits wide is refused, and the host has then gone wrong (20_memory.md R77, R79, R80). -/
def Obligations.HeldAndRefusedAccesses : Prop :=
  (∀ (s : State) (rest : List Move), s.busy = true → s.inputs = .read 0x10 64 :: rest →
    step s = .next { s with inputs := rest, replies := s.replies ++ [.data (statusWord s)] }) ∧
  (∀ (s : State) (off width : Nat) (v : Word) (rest : List Move),
    s.busy = true → off < 0x60000 →
    (s.inputs = .read off width :: rest ∧ ¬(off = 0x10 ∧ width = 64) ∨
      s.inputs = .write off width v :: rest) →
      step s = completion s) ∧
  (∀ (s : State) (off width : Nat) (v : Word) (rest : List Move),
    s.busy = false → off < 0x60000 → width ≠ 64 →
    (s.inputs = .read off width :: rest ∨ s.inputs = .write off width v :: rest) →
      ∃ t, step s = .next t ∧ hostWentWrong t ∧
        t = { s with inputs := rest, replies := s.replies ++ [.error] })

/-- While ERR = 1 the only writes admitted are SRESET to CMD, 0 or 0x10 to STATUS, and CTRL, and reads
are admitted exactly as while ERR = 0 (20_memory.md R95). -/
def Obligations.ErrorLocksOutWrites : Prop :=
  ∀ s : State, s.err = true →
    (∀ (off width : Nat) (v : Word), (hostWrite s off width v).isSome = true ↔
      width = 64 ∧
      (off = 0x08 ∧ v = 0x3F ∨ off = 0x10 ∧ (v = 0 ∨ v = 0x10) ∨ off = 0x18 ∧ v.toNat < 2)) ∧
    (∀ off width : Nat, (hostRead s off width).isSome =
      (hostRead { s with err := false, errcode := .none, faultcmd := 0 } off width).isSome)

/-- An admitted write to CMD latches the word, sets BUSY and clears CDONE, and changes nothing else of
the block, whatever the 32-bit word; while BUSY = 1 such a write is held (44_system.md R230). -/
def Obligations.IssueLatchesTheCommand : Prop :=
  ∀ (s : State) (w : CmdWord) (rest : List Move),
    s.inputs = .write 0x08 64 (w.setWidth 64) :: rest →
      (s.busy = false → s.err = false ∨ w = 0x3F →
        step s = .next { s with
          lcmd := w
          busy := true
          cdone := false
          inputs := rest
          replies := s.replies ++ [.ok] }) ∧
      (s.busy = true → step s = completion s)

/-! ### Memory and invariants -/

/-- No step changes the root; only the platform's own move changes what MAT answers, and then at one
word address only; a command's read returns what MAT holds, or, where MAT was changed meanwhile, one of
the contents it has held since the issue (20_memory.md R74, R83, R88). -/
def Obligations.OnlyThePlatformChangesMat : Prop :=
  (∀ s t : State, step s = .next t →
    t.root = s.root ∧
    ((∀ a, t.mat.answer a = s.mat.answer a) ∨
      ∃ a r rest, s.inputs = .place a r :: rest ∧ t.mat.answer a = r ∧
        ∀ b, b ≠ a → t.mat.answer b = s.mat.answer b)) ∧
  (∀ (s : State) (a : Word),
    (s.matOld = [] → matRead s a = s.mat.answer a) ∧
    ∃ m ∈ s.mat :: s.matOld, matRead s a = m.answer a)

/-- The state after reset is a good state (10_state.md R61, R63; the clauses on MAT and its earlier
contents are the model's own, logs 3 and 4). -/
def Obligations.ResetHasTheInvariant : Prop :=
  StateInv State.reset

/-- Every step keeps a state good: the invariants of 10_state.md R63 with R46 and R62, the fault record's
agreement with the command in flight (60_exceptions.md R251), and the canonical form of MAT, which is the
model's own (logs 3 and 4). -/
def Obligations.StepKeepsTheInvariant : Prop :=
  ∀ s t : State, StateInv s → step s = .next t → StateInv t

end
end

