-- ==== Sys2Proof/Laws/Memory.lean ====
section
/-! SUPPORT. MAT (20_memory.md R74, R83): reading after placing, and that every memory operation
keeps the canonical form. -/

namespace Sys2Proof.Machine

/-! ### One byte -/

theorem byteAt_cons (c : Host.Cell) (rest : List Host.Cell) (a : Nat) :
    byteAt (c :: rest) a = if a = c.1 then some c.2 else byteAt rest a := by
  obtain ⟨k, v⟩ := c
  by_cases h : a = k
  · subst h; simp [byteAt]
  · have : (a == k) = false := by simpa using h
    simp [byteAt, List.lookup, this, h]

theorem byteAt_setByte (cells : List Host.Cell) (a b : Nat) (v : BitVec 8) :
    byteAt (setByte cells a v) b = if b = a then some v else byteAt cells b := by
  induction cells with
  | nil => simp [setByte, byteAt_cons]
  | cons c rest ih =>
    unfold setByte
    split
    · rw [byteAt_cons]
    · split
      · next h => subst h; rw [byteAt_cons, byteAt_cons]; split <;> simp_all
      · next h =>
        rw [byteAt_cons, byteAt_cons, ih]
        by_cases hb : b = c.1
        · rw [if_pos hb, if_pos hb, if_neg (by omega)]
        · rw [if_neg hb, if_neg hb]

theorem byteAt_setBytes (k : Nat) : ∀ (a v b : Nat) (cells : List Host.Cell),
    byteAt (setBytes k a v cells) b =
      if a ≤ b ∧ b < a + k then some (BitVec.ofNat 8 (v / 256 ^ (b - a))) else byteAt cells b := by
  induction k with
  | zero => intro a v b cells; simp only [setBytes]; rw [if_neg (by omega)]
  | succ k ih =>
    intro a v b cells
    rw [setBytes, ih, byteAt_setByte]
    by_cases h : b = a
    · subst h; simp
    · by_cases h2 : a + 1 ≤ b ∧ b < a + 1 + k
      · have h3 : a ≤ b ∧ b < a + (k + 1) := by omega
        have h4 : b - a = (b - (a + 1)) + 1 := by omega
        rw [if_pos h2, if_pos h3, h4, pow_succ', Nat.div_div_eq_div_mul]
      · have h3 : ¬(a ≤ b ∧ b < a + (k + 1)) := by omega
        rw [if_neg h2, if_neg h3, if_neg h]

theorem byteAt_filter (p : Nat → Bool) (cells : List Host.Cell) (b : Nat) :
    byteAt (cells.filter fun c => p c.1) b = if p b then byteAt cells b else none := by
  induction cells with
  | nil => simp [byteAt]
  | cons c rest ih =>
    rw [List.filter_cons]
    split
    · rw [byteAt_cons, byteAt_cons, ih]; split <;> simp_all
    · next hp =>
      rw [byteAt_cons, ih]
      by_cases hb : b = c.1
      · subst hb; simp [hp]
      · rw [if_neg hb]

theorem byteAt_dropWord (cells : List Host.Cell) (a b : Nat) :
    byteAt (dropWord cells a) b = if b / 8 ≠ a then byteAt cells b else none := by
  have h := byteAt_filter (fun k => decide (k / 8 ≠ a)) cells b
  simpa [dropWord] using h

/-- A byte is listed exactly where some cell has its address. -/
theorem byteAt_isSome (cells : List Host.Cell) (b : Nat) :
    (byteAt cells b).isSome ↔ b ∈ cells.map Prod.fst := by
  induction cells with
  | nil => simp [byteAt]
  | cons c rest ih => rw [byteAt_cons]; split <;> simp_all

/-! ### Words -/

theorem bytesAt_congr (k : Nat) : ∀ (a : Nat) (c d : List Host.Cell),
    (∀ b, a ≤ b → b < a + k → byteAt c b = byteAt d b) → bytesAt c k a = bytesAt d k a := by
  induction k with
  | zero => intros; rfl
  | succ k ih =>
    intro a c d h
    rw [bytesAt, bytesAt, h a (by omega) (by omega),
      ih (a + 1) c d fun b h1 h2 => h b (by omega) (by omega)]

theorem bytesAt_setBytes (k : Nat) : ∀ (a v : Nat) (cells : List Host.Cell),
    bytesAt (setBytes k a v cells) k a = some (v % 256 ^ k) := by
  induction k with
  | zero => intro a v cells; simp [bytesAt, Nat.mod_one]
  | succ k ih =>
    intro a v cells
    rw [bytesAt, byteAt_setBytes, if_pos (by omega)]
    have : bytesAt (setBytes (k + 1) a v cells) k (a + 1) = some (v / 256 % 256 ^ k) := ih _ _ _
    rw [this, Nat.sub_self, pow_zero, Nat.div_one]
    show some ((BitVec.ofNat 8 v).toNat + 256 * (v / 256 % 256 ^ k)) = _
    rw [BitVec.toNat_ofNat, pow_succ' 256, Nat.mod_mul]

theorem bytesAt_none (k a : Nat) (cells : List Host.Cell) (hk : 0 < k) (h : byteAt cells a = none) :
    bytesAt cells k a = none := by
  obtain ⟨j, rfl⟩ : ∃ j, k = j + 1 := ⟨k - 1, by omega⟩
  simp [bytesAt, h]

theorem wordAt_congr (c d : List Host.Cell) (a : Nat)
    (h : ∀ b, b / 8 = a → byteAt c b = byteAt d b) : wordAt c a = wordAt d a := by
  unfold wordAt
  rw [bytesAt_congr 8 (8 * a) c d fun b h1 h2 => h b (by omega)]

/-- A word reads as it was written. -/
theorem wordAt_setBytes_same (cells : List Host.Cell) (a : Nat) (v : Word) :
    wordAt (setBytes 8 (8 * a) v.toNat cells) a = some v := by
  unfold wordAt
  rw [bytesAt_setBytes]
  simp only [Option.map_some, Option.some.injEq]
  apply BitVec.eq_of_toNat_eq
  have := v.isLt
  simp only [BitVec.toNat_ofNat]
  omega

/-- Every other word reads as before. -/
theorem wordAt_setBytes_other (cells : List Host.Cell) (a b v : Nat) (h : b ≠ a) :
    wordAt (setBytes 8 (8 * a) v cells) b = wordAt cells b :=
  wordAt_congr _ _ _ fun x hx => by rw [byteAt_setBytes, if_neg (by omega)]

theorem wordAt_dropWord_same (cells : List Host.Cell) (a : Nat) :
    wordAt (dropWord cells a) a = none := by
  unfold wordAt
  rw [bytesAt_none 8 _ _ (by decide) (by rw [byteAt_dropWord, if_neg (by omega)])]
  rfl

theorem wordAt_dropWord_other (cells : List Host.Cell) (a b : Nat) (h : b ≠ a) :
    wordAt (dropWord cells a) b = wordAt cells b :=
  wordAt_congr _ _ _ fun x hx => by rw [byteAt_dropWord, if_pos (by omega)]

/-! ### Answers -/

theorem mem_insertAddr (l : List Nat) (a x : Nat) : x ∈ insertAddr l a ↔ x = a ∨ x ∈ l := by
  induction l with
  | nil => simp [insertAddr]
  | cons b rest ih =>
    unfold insertAddr
    split
    · simp
    · split
      · simp_all
      · simp only [List.mem_cons, ih]; tauto

/-- MAT answers as the platform last said (20_memory.md R83). -/
theorem answer_place_same (m : Memory) (a : Word) (r : MatAnswer) : (m.place a r).answer a = r := by
  cases r with
  | data v => simp [Memory.place, Memory.answer, wordAt_setBytes_same]
  | error => simp [Memory.place, Memory.answer, wordAt_dropWord_same]
  | silent => simp [Memory.place, Memory.answer, mem_insertAddr]

/-- Every other word address answers as before. -/
theorem answer_place_other (m : Memory) (a b : Word) (r : MatAnswer) (h : b ≠ a) :
    (m.place a r).answer b = m.answer b := by
  have hn : b.toNat ≠ a.toNat := fun hh => h (BitVec.eq_of_toNat_eq hh)
  cases r <;> simp [Memory.place, Memory.answer, mem_insertAddr, hn, wordAt_setBytes_other,
    wordAt_dropWord_other]

/-- With nothing listed every word address answers with an error. -/
@[simp] theorem answer_empty (a : Word) : Memory.empty.answer a = .error := by
  simp [Memory.empty, Memory.answer, wordAt, bytesAt, byteAt]

/-! ### The canonical form is kept -/

theorem mem_setByte (cells : List Host.Cell) (a : Nat) (v : BitVec 8) (c : Host.Cell)
    (h : c ∈ setByte cells a v) : c.1 = a ∨ c ∈ cells := by
  induction cells with
  | nil => simp_all [setByte]
  | cons d rest ih =>
    unfold setByte at h
    split at h
    · rcases List.mem_cons.1 h with rfl | h <;> simp_all
    · split at h
      · rcases List.mem_cons.1 h with rfl | h <;> simp_all
      · rcases List.mem_cons.1 h with rfl | h
        · simp
        · rcases ih h with h | h <;> simp_all

theorem setByte_sorted (cells : List Host.Cell) (a : Nat) (v : BitVec 8)
    (h : (cells.map Prod.fst).Pairwise (· < ·)) :
    ((setByte cells a v).map Prod.fst).Pairwise (· < ·) := by
  induction cells with
  | nil => simp [setByte]
  | cons d rest ih =>
    simp only [List.map_cons, List.pairwise_cons] at h
    unfold setByte
    split
    · simp only [List.map_cons, List.pairwise_cons]
      refine ⟨fun b hb => ?_, h.1, h.2⟩
      rcases List.mem_cons.1 hb with rfl | hb
      · assumption
      · exact lt_trans (by assumption) (h.1 b hb)
    · split
      · next heq => subst heq; simpa [List.pairwise_cons] using h
      · simp only [List.map_cons, List.pairwise_cons]
        refine ⟨fun b hb => ?_, ih h.2⟩
        obtain ⟨c, hc, rfl⟩ := List.mem_map.1 hb
        rcases mem_setByte _ _ _ _ hc with h1 | h1
        · omega
        · exact h.1 _ (List.mem_map.2 ⟨c, h1, rfl⟩)

theorem setBytes_sorted (k : Nat) : ∀ (a v : Nat) (cells : List Host.Cell),
    (cells.map Prod.fst).Pairwise (· < ·) →
    ((setBytes k a v cells).map Prod.fst).Pairwise (· < ·) := by
  induction k with
  | zero => intro a v cells h; exact h
  | succ k ih => intro a v cells h; exact ih _ _ _ (setByte_sorted _ _ _ h)

theorem mem_setBytes (k : Nat) : ∀ (a v : Nat) (cells : List Host.Cell) (c : Host.Cell),
    c ∈ setBytes k a v cells → (a ≤ c.1 ∧ c.1 < a + k) ∨ c ∈ cells := by
  induction k with
  | zero => intro a v cells c h; exact .inr h
  | succ k ih =>
    intro a v cells c h
    rcases ih _ _ _ _ h with h | h
    · left; omega
    · rcases mem_setByte _ _ _ _ h with h | h
      · left; omega
      · exact .inr h

theorem dropWord_sorted (cells : List Host.Cell) (a : Nat)
    (h : (cells.map Prod.fst).Pairwise (· < ·)) :
    ((dropWord cells a).map Prod.fst).Pairwise (· < ·) :=
  List.Pairwise.sublist ((List.filter_sublist).map _) h

theorem insertAddr_sorted (l : List Nat) (a : Nat) (h : l.Pairwise (· < ·)) :
    (insertAddr l a).Pairwise (· < ·) := by
  induction l with
  | nil => simp [insertAddr]
  | cons b rest ih =>
    simp only [List.pairwise_cons] at h
    unfold insertAddr
    split
    · simp only [List.pairwise_cons]
      refine ⟨fun x hx => ?_, h.1, h.2⟩
      rcases List.mem_cons.1 hx with rfl | hx
      · assumption
      · exact lt_trans (by assumption) (h.1 x hx)
    · split
      · simpa [List.pairwise_cons] using h
      · simp only [List.pairwise_cons]
        refine ⟨fun x hx => ?_, ih h.2⟩
        rcases (mem_insertAddr _ _ _).1 hx with rfl | hx
        · omega
        · exact h.1 x hx

theorem empty_wf : Memory.empty.wf := by decide

/-- The one operation that changes MAT keeps its canonical form. -/
theorem place_wf (m : Memory) (a : Word) (r : MatAnswer) (h : m.wf) : (m.place a r).wf := by
  obtain ⟨hs, hc, ss, sc⟩ := h
  have ha := a.isLt
  have hfilter : (m.silent.filter (· ≠ a.toNat)).Pairwise (· < ·) := ss.sublist List.filter_sublist
  have hdrop : ∀ c ∈ dropWord m.cells a.toNat,
      c.1 < 2 ^ 67 ∧ ∀ b < 8, (byteAt (dropWord m.cells a.toNat) (8 * (c.1 / 8) + b)).isSome := by
    intro c hcm
    obtain ⟨h1, h2⟩ := List.mem_filter.1 hcm
    have h2 : c.1 / 8 ≠ a.toNat := by simpa using h2
    refine ⟨(hc c h1).1, fun b hb => ?_⟩
    rw [byteAt_dropWord, if_pos (by omega)]
    exact (hc c h1).2 b hb
  cases r with
  | data v =>
    refine ⟨setBytes_sorted _ _ _ _ hs, fun c hcm => ?_, hfilter, fun x hx => ?_⟩
    · rcases mem_setBytes _ _ _ _ _ hcm with h1 | h1
      · refine ⟨by omega, fun b hb => ?_⟩
        simp only [Memory.place]
        rw [byteAt_setBytes, if_pos (by omega)]; rfl
      · refine ⟨(hc c h1).1, fun b hb => ?_⟩
        simp only [Memory.place]
        rw [byteAt_setBytes]
        split
        · rfl
        · exact (hc c h1).2 b hb
    · obtain ⟨h1, h2⟩ := List.mem_filter.1 hx
      have h2 : x ≠ a.toNat := by simpa using h2
      refine ⟨(sc x h1).1, fun c hcm => ?_⟩
      rcases mem_setBytes _ _ _ _ _ hcm with h3 | h3
      · omega
      · exact (sc x h1).2 c h3
  | error =>
    refine ⟨dropWord_sorted _ _ hs, hdrop, hfilter, fun x hx => ?_⟩
    exact ⟨(sc x (List.mem_filter.1 hx).1).1,
      fun c hcm => (sc x (List.mem_filter.1 hx).1).2 c (List.mem_filter.1 hcm).1⟩
  | silent =>
    refine ⟨dropWord_sorted _ _ hs, hdrop, insertAddr_sorted _ _ ss, fun x hx => ?_⟩
    rcases (mem_insertAddr _ _ _).1 hx with rfl | hx
    · refine ⟨ha, fun c hcm => ?_⟩
      simpa using (List.mem_filter.1 hcm).2
    · exact ⟨(sc x hx).1, fun c hcm => (sc x hx).2 c (List.mem_filter.1 hcm).1⟩

end Sys2Proof.Machine
end

