-- ==== Sys2Proof/Laws/Seq.lean ====
section
/-! SUPPORT. The functions on residues and sequences: values, lengths, and the column loop of ENCROW. -/

namespace Sys2Proof.Machine

/-! ### Residues -/

@[simp] theorem toResidue_val (e : Nat) : (toResidue e).val = e % Q := rfl

@[simp] theorem toResidue_of_val (r : Residue) : toResidue r.val = r :=
  Fin.ext (Nat.mod_eq_of_lt r.isLt)

theorem toResidue_eq_iff (a b : Nat) : toResidue a = toResidue b ↔ a % Q = b % Q := Fin.ext_iff

theorem addMod_val (u v : Residue) : (addMod u v).val = (u.val + v.val) % Q := rfl

theorem subMod_val (u v : Residue) : (subMod u v).val = (u.val + Q - v.val) % Q := rfl

theorem mulMod_val (u v : Residue) : (mulMod u v).val = (u.val * v.val) % Q := rfl

theorem mulMod_comm (u v : Residue) : mulMod u v = mulMod v u := by
  unfold mulMod; rw [Nat.mul_comm]

/-- The exponent 0 gives 1 for every base (40_modular_arithmetic.md R133). -/
@[simp] theorem modPow_zero (b : Nat) : modPow b 0 = 1 := rfl

theorem powLoop_step (fuel e : Nat) (r x : Residue) (h : e ≠ 0) :
    powLoop (fuel + 1) e r x =
      powLoop fuel (e / 2) (if e % 2 = 1 then mulMod r x else r) (mulMod x x) := by
  simp [powLoop, h]

/-! ### Elements and lengths -/

theorem elem_eq_getElem (x : List Residue) (t : Nat) (h : t < x.length) : elem x t = x[t] := by
  simp [elem, h]

@[simp] theorem elem_map_range (N t : Nat) (f : Nat → Residue) (h : t < N) :
    elem ((List.range N).map f) t = f t := by
  simp [elem, h]

@[simp] theorem elem_replicate (N t : Nat) (r : Residue) (h : t < N) :
    elem (List.replicate N r) t = r := by
  simp [elem, h]

@[simp] theorem bitRevSeq_length (m : Nat) (x : List Residue) : (bitRevSeq m x).length = 2 ^ m := by
  simp [bitRevSeq]

/-- BitRevSeq element by element (41_ntt.md R152). -/
theorem elem_bitRevSeq (m i : Nat) (x : List Residue) (h : i < 2 ^ m) :
    elem (bitRevSeq m x) i = elem x (rev m i) := by
  simp [bitRevSeq, h]

theorem nttBlock_length (w : Residue) : ∀ (us xs : List Residue) (wn : Residue),
    us.length = xs.length →
    (nttBlock w wn us xs).1.length = us.length ∧ (nttBlock w wn us xs).2.length = us.length
  | [], [], _, _ => by simp [nttBlock]
  | _ :: _, [], _, h => by simp at h
  | [], _ :: _, _, h => by simp at h
  | u :: us, x :: xs, wn, h => by
    have := nttBlock_length w us xs (mulMod wn w) (by simpa using h)
    simp [nttBlock, this]

theorem fwhtBlock_length (us vs : List Residue) (h : us.length = vs.length) :
    (fwhtBlock us vs).1.length = us.length ∧ (fwhtBlock us vs).2.length = us.length := by
  simp [fwhtBlock, h]

/-- A stage keeps the length when its block function does. -/
theorem overBlocks_length (f : List Residue → List Residue → List Residue × List Residue)
    (half : Nat)
    (hf : ∀ us xs, us.length = xs.length →
      (f us xs).1.length = us.length ∧ (f us xs).2.length = us.length) :
    ∀ (blocks : Nat) (a : List Residue), blocks * (2 * half) ≤ a.length →
      (overBlocks f half blocks a).length = a.length
  | 0, _, _ => rfl
  | blocks + 1, a, h => by
    have e : (blocks + 1) * (2 * half) = blocks * (2 * half) + 2 * half := by ring
    have h1 : (a.take half).length = half := by rw [List.length_take]; omega
    have h2 : ((a.drop half).take half).length = half := by
      rw [List.length_take, List.length_drop]; omega
    have hl := hf (a.take half) ((a.drop half).take half) (by rw [h1, h2])
    have ih := overBlocks_length f half hf blocks (a.drop (2 * half)) (by
      rw [List.length_drop]; omega)
    simp only [overBlocks, List.length_append, hl, h1, ih, List.length_drop]
    omega

theorem pow_split (m s : Nat) (h : s < m) : 2 ^ (m - (s + 1)) * (2 * 2 ^ s) = 2 ^ m := by
  rw [← pow_succ', ← pow_add]; congr 1; omega

theorem nttStage_length (g : Residue) (d : Dir) (m s : Nat) (a : List Residue) (hs : s < m)
    (ha : a.length = 2 ^ m) : (nttStage g d m s a).length = 2 ^ m := by
  unfold nttStage
  rw [overBlocks_length _ _ (fun us xs h => nttBlock_length _ us xs _ h) _ _
    (by rw [pow_split m s hs, ha])]
  exact ha

theorem fwhtStage_length (m s : Nat) (a : List Residue) (hs : s < m) (ha : a.length = 2 ^ m) :
    (fwhtStage m s a).length = 2 ^ m := by
  unfold fwhtStage
  rw [overBlocks_length _ _ fwhtBlock_length _ _ (by rw [pow_split m s hs, ha])]
  exact ha

/-- A property that each stage keeps is kept by all of them. -/
theorem foldl_range_keeps {α : Type} (P : α → Prop) (f : α → Nat → α) (m : Nat)
    (hf : ∀ a s, s < m → P a → P (f a s)) : ∀ a, P a → P ((List.range m).foldl f a) := by
  have : ∀ (l : List Nat), (∀ s ∈ l, s < m) → ∀ a, P a → P (l.foldl f a) := by
    intro l
    induction l with
    | nil => intro _ a ha; exact ha
    | cons s l ih =>
      intro hl a ha
      exact ih (fun x hx => hl x (List.mem_cons_of_mem _ hx)) _ (hf a s (hl s List.mem_cons_self) ha)
  exact this _ fun s hs => List.mem_range.1 hs

theorem nttStages_length (g : Residue) (d : Dir) (m : Nat) (x : List Residue)
    (h : x.length = 2 ^ m) : (nttStages g d m x).length = 2 ^ m :=
  foldl_range_keeps (fun a => a.length = 2 ^ m) _ m
    (fun a s hs ha => nttStage_length g d m s a hs ha) x h

theorem fwhtStages_length (m : Nat) (x : List Residue) (h : x.length = 2 ^ m) :
    (fwhtStages m x).length = 2 ^ m :=
  foldl_range_keeps (fun a => a.length = 2 ^ m) _ m
    (fun a s hs ha => fwhtStage_length m s a hs ha) x h

@[simp] theorem scaleSeq_length (N : Nat) (x : List Residue) : (scaleSeq N x).length = x.length := by
  simp [scaleSeq]

theorem nttSeq_length (g : Residue) (m : Nat) (d : Dir) (x : List Residue) :
    (nttSeq g m d x).length = 2 ^ m := by
  cases d <;> simp [nttSeq, nttStages_length]

theorem fwhtSeq_length (m : Nat) (d : Dir) (x : List Residue) (h : x.length = 2 ^ m) :
    (fwhtSeq m d x).length = 2 ^ m := by
  cases d <;> simp [fwhtSeq, fwhtStages_length m x h]

@[simp] theorem mulSeq_length (x y : List Residue) :
    (mulSeq x y).length = min x.length y.length := by
  simp [mulSeq]

@[simp] theorem mutateSeq_length (k : Nat) (x : List Residue) :
    (mutateSeq k x).length = x.length := by
  simp [mutateSeq]

@[simp] theorem accumulate_length (buf : List Residue) (t : Nat) (e : Word) :
    (accumulate buf t e).length = buf.length := by
  simp [accumulate]

@[simp] theorem freeRow_length (s : State) : (freeRow s).length = s.nlen.toNat := by
  simp [freeRow]

@[simp] theorem encodeRow_length (i n N : Nat) (M : Nat → Word) :
    (encodeRow i n N M).length = N :=
  foldl_range_keeps (fun a : List Residue => a.length = N) _ n (fun a s _ ha => by simpa using ha) _
    (by simp)

/-- log2 of the transform length is at most 14 (43_orchestrator.md R191). -/
theorem sizeLog_le (src : Nat) : sizeLog src ≤ 14 := by
  unfold sizeLog
  cases h : (List.range (Config.logCeil + 1)).find? fun m => max 1 (min src Config.ceil) ≤ 2 ^ m with
  | none => simp [Config.logCeil]
  | some m =>
    have := List.mem_of_find?_eq_some h
    simp [Config.logCeil] at this
    simpa using Nat.lt_succ_iff.1 this

/-! ### The column loop of ENCROW -/

/-- With every read answered with data the loop ends with the accumulated buffer. -/
theorem encodeLoop_data (ans : Nat → MatAnswer) (idx : Nat → Nat) (M : Nat → Word) :
    ∀ (todo j : Nat) (buf : List Residue), (∀ k < todo, ans (j + k) = .data (M (j + k))) →
      encodeLoop ans idx todo j buf =
        .row ((List.range todo).foldl (fun b k => accumulate b (idx (j + k)) (M (j + k))) buf) := by
  intro todo
  induction todo with
  | zero => intro j buf _; rfl
  | succ todo ih =>
    intro j buf h
    have h0 := h 0 (by omega)
    rw [Nat.add_zero] at h0
    rw [encodeLoop, h0]
    simp only []
    rw [ih (j + 1) _ fun k hk => by rw [Nat.add_assoc, Nat.add_comm 1 k]; exact h (k + 1) (by omega),
      List.range_succ_eq_map, List.foldl_cons, List.foldl_map]
    simp only [Nat.add_zero, Nat.add_assoc, Nat.add_comm 1]

/-- The loop stops at the first error: `k` data answers, then an error, are k + 1 reads. -/
theorem encodeLoop_error (ans : Nat → MatAnswer) (idx : Nat → Nat) (M : Nat → Word) :
    ∀ (k todo j : Nat) (buf : List Residue), k < todo →
      (∀ x < k, ans (j + x) = .data (M (j + x))) → ans (j + k) = .error →
      encodeLoop ans idx todo j buf = .failed (j + k + 1) := by
  intro k
  induction k with
  | zero =>
    intro todo j buf hk _ he
    obtain ⟨t, rfl⟩ : ∃ t, todo = t + 1 := ⟨todo - 1, by omega⟩
    rw [encodeLoop, show ans j = .error from he]
  | succ k ih =>
    intro todo j buf hk hd he
    obtain ⟨t, rfl⟩ : ∃ t, todo = t + 1 := ⟨todo - 1, by omega⟩
    rw [encodeLoop, show ans j = .data (M j) from hd 0 (by omega)]
    simp only []
    rw [ih t (j + 1) _ (by omega)
      (fun x hx => by rw [Nat.add_assoc, Nat.add_comm 1 x]; exact hd (x + 1) (by omega))
      (by rw [Nat.add_assoc, Nat.add_comm 1 k]; exact he)]
    congr 1; omega

/-- A read that is never answered, before any error, stalls the loop. -/
theorem encodeLoop_silent (ans : Nat → MatAnswer) (idx : Nat → Nat) (M : Nat → Word) :
    ∀ (k todo j : Nat) (buf : List Residue), k < todo →
      (∀ x < k, ans (j + x) = .data (M (j + x))) → ans (j + k) = .silent →
      encodeLoop ans idx todo j buf = .stalled := by
  intro k
  induction k with
  | zero =>
    intro todo j buf hk _ he
    obtain ⟨t, rfl⟩ : ∃ t, todo = t + 1 := ⟨todo - 1, by omega⟩
    rw [encodeLoop, show ans j = .silent from he]
  | succ k ih =>
    intro todo j buf hk hd he
    obtain ⟨t, rfl⟩ : ∃ t, todo = t + 1 := ⟨todo - 1, by omega⟩
    rw [encodeLoop, show ans j = .data (M j) from hd 0 (by omega)]
    simp only []
    exact ih t (j + 1) _ (by omega)
      (fun x hx => by rw [Nat.add_assoc, Nat.add_comm 1 x]; exact hd (x + 1) (by omega))
      (by rw [Nat.add_assoc, Nat.add_comm 1 k]; exact he)

/-- Everything the loop can do: with no silent answer it ends with a buffer of the same length or
with an error after at least one and at most `todo` reads. -/
theorem encodeLoop_cases (ans : Nat → MatAnswer) (idx : Nat → Nat) :
    ∀ (todo j : Nat) (buf : List Residue),
      (∃ b, encodeLoop ans idx todo j buf = .row b ∧ b.length = buf.length) ∨
      (∃ k, encodeLoop ans idx todo j buf = .failed k ∧ j < k ∧ k ≤ j + todo) ∨
      (encodeLoop ans idx todo j buf = .stalled ∧ ∃ k, ans k = .silent) := by
  intro todo
  induction todo with
  | zero => intro j buf; exact .inl ⟨buf, rfl, rfl⟩
  | succ todo ih =>
    intro j buf
    rw [encodeLoop]
    cases h : ans j with
    | data e =>
      simp only []
      rcases ih (j + 1) (accumulate buf (idx j) e) with ⟨b, h1, h2⟩ | ⟨k, h1, h2, h3⟩ | h1
      · exact .inl ⟨b, h1, by rw [h2, accumulate_length]⟩
      · exact .inr (.inl ⟨k, h1, by omega, by omega⟩)
      · exact .inr (.inr h1)
    | error => exact .inr (.inl ⟨j + 1, rfl, by omega, by omega⟩)
    | silent => exact .inr (.inr ⟨rfl, j, h⟩)

/-- Everything the reading of a row can do (43_orchestrator.md R197). -/
theorem readRow_cases (s : State) (i : Nat) :
    (∃ b, readRow s i = .row b ∧ b.length = s.nlen.toNat) ∨
    (∃ k, readRow s i = .failed k ∧ 0 < k ∧ k ≤ s.ncfg.toNat) ∨
    (readRow s i = .stalled ∧ ∃ a, matRead s a = .silent) := by
  rcases encodeLoop_cases (fun j => matRead s (matAddr s.mcfg s.ncfg.toNat i j))
    (fun j => bucket i j s.ncfg.toNat s.nlen.toNat) s.ncfg.toNat 0
    (List.replicate s.nlen.toNat 0) with ⟨b, h1, h2⟩ | ⟨k, h1, h2, h3⟩ | ⟨h1, k, h2⟩
  · exact .inl ⟨b, h1, by simpa using h2⟩
  · exact .inr (.inl ⟨k, h1, h2, by omega⟩)
  · exact .inr (.inr ⟨h1, _, h2⟩)

end Sys2Proof.Machine
end

