-- ==== Sys2Proof/Laws/State.lean ====
section
/-! SUPPORT. One lemma per field per named update of the state, so that no later proof unfolds a
record update. -/

namespace Sys2Proof.Machine

/-! ### finish -/

@[simp] theorem finish_opa (s : State) :
    (finish s).opa = s.opa := rfl
@[simp] theorem finish_opb (s : State) :
    (finish s).opb = s.opb := rfl
@[simp] theorem finish_res (s : State) :
    (finish s).res = s.res := rfl
@[simp] theorem finish_ndim (s : State) :
    (finish s).ndim = s.ndim := rfl
@[simp] theorem finish_target (s : State) :
    (finish s).target = s.target := rfl
@[simp] theorem finish_mbase (s : State) :
    (finish s).mbase = s.mbase := rfl
@[simp] theorem finish_ncfg (s : State) :
    (finish s).ncfg = s.ncfg := rfl
@[simp] theorem finish_mcfg (s : State) :
    (finish s).mcfg = s.mcfg := rfl
@[simp] theorem finish_nlen (s : State) :
    (finish s).nlen = s.nlen := rfl
@[simp] theorem finish_logn (s : State) :
    (finish s).logn = s.logn := rfl
@[simp] theorem finish_kexp (s : State) :
    (finish s).kexp = s.kexp := rfl
@[simp] theorem finish_rowcnt (s : State) :
    (finish s).rowcnt = s.rowcnt := rfl
@[simp] theorem finish_result (s : State) :
    (finish s).result = s.result := rfl
@[simp] theorem finish_faultcmd (s : State) :
    (finish s).faultcmd = s.faultcmd := rfl
@[simp] theorem finish_busy (s : State) :
    (finish s).busy = false := rfl
@[simp] theorem finish_err (s : State) :
    (finish s).err = s.err := rfl
@[simp] theorem finish_cdone (s : State) :
    (finish s).cdone = true := rfl
@[simp] theorem finish_errcode (s : State) :
    (finish s).errcode = s.errcode := rfl
@[simp] theorem finish_phase (s : State) :
    (finish s).phase = s.phase := rfl
@[simp] theorem finish_ie (s : State) :
    (finish s).ie = s.ie := rfl
@[simp] theorem finish_row (s : State) :
    (finish s).row = s.row := rfl
@[simp] theorem finish_psi (s : State) :
    (finish s).psi = s.psi := rfl
@[simp] theorem finish_trace (s : State) :
    (finish s).trace = s.trace := rfl
@[simp] theorem finish_lcmd (s : State) :
    (finish s).lcmd = s.lcmd := rfl
@[simp] theorem finish_root (s : State) :
    (finish s).root = s.root := rfl
@[simp] theorem finish_mat (s : State) :
    (finish s).mat = s.mat := rfl
@[simp] theorem finish_matOld (s : State) :
    (finish s).matOld = [] := rfl
@[simp] theorem finish_matReads (s : State) :
    (finish s).matReads = s.matReads := rfl
@[simp] theorem finish_inputs (s : State) :
    (finish s).inputs = s.inputs := rfl
@[simp] theorem finish_replies (s : State) :
    (finish s).replies = s.replies := rfl
@[simp] theorem finish_freeCount (s : State) :
    (finish s).freeCount = s.freeCount := rfl

/-! ### faultEntry -/

@[simp] theorem faultEntry_opa (c : ErrCode) (s : State) :
    (faultEntry c s).opa = s.opa := rfl
@[simp] theorem faultEntry_opb (c : ErrCode) (s : State) :
    (faultEntry c s).opb = s.opb := rfl
@[simp] theorem faultEntry_res (c : ErrCode) (s : State) :
    (faultEntry c s).res = s.res := rfl
@[simp] theorem faultEntry_ndim (c : ErrCode) (s : State) :
    (faultEntry c s).ndim = s.ndim := rfl
@[simp] theorem faultEntry_target (c : ErrCode) (s : State) :
    (faultEntry c s).target = s.target := rfl
@[simp] theorem faultEntry_mbase (c : ErrCode) (s : State) :
    (faultEntry c s).mbase = s.mbase := rfl
@[simp] theorem faultEntry_ncfg (c : ErrCode) (s : State) :
    (faultEntry c s).ncfg = s.ncfg := rfl
@[simp] theorem faultEntry_mcfg (c : ErrCode) (s : State) :
    (faultEntry c s).mcfg = s.mcfg := rfl
@[simp] theorem faultEntry_nlen (c : ErrCode) (s : State) :
    (faultEntry c s).nlen = s.nlen := rfl
@[simp] theorem faultEntry_logn (c : ErrCode) (s : State) :
    (faultEntry c s).logn = s.logn := rfl
@[simp] theorem faultEntry_kexp (c : ErrCode) (s : State) :
    (faultEntry c s).kexp = s.kexp := rfl
@[simp] theorem faultEntry_rowcnt (c : ErrCode) (s : State) :
    (faultEntry c s).rowcnt = s.rowcnt := rfl
@[simp] theorem faultEntry_result (c : ErrCode) (s : State) :
    (faultEntry c s).result = s.result := rfl
@[simp] theorem faultEntry_faultcmd (c : ErrCode) (s : State) :
    (faultEntry c s).faultcmd = s.lcmd := rfl
@[simp] theorem faultEntry_busy (c : ErrCode) (s : State) :
    (faultEntry c s).busy = s.busy := rfl
@[simp] theorem faultEntry_err (c : ErrCode) (s : State) :
    (faultEntry c s).err = true := rfl
@[simp] theorem faultEntry_cdone (c : ErrCode) (s : State) :
    (faultEntry c s).cdone = s.cdone := rfl
@[simp] theorem faultEntry_errcode (c : ErrCode) (s : State) :
    (faultEntry c s).errcode = c := rfl
@[simp] theorem faultEntry_phase (c : ErrCode) (s : State) :
    (faultEntry c s).phase = s.phase := rfl
@[simp] theorem faultEntry_ie (c : ErrCode) (s : State) :
    (faultEntry c s).ie = s.ie := rfl
@[simp] theorem faultEntry_row (c : ErrCode) (s : State) :
    (faultEntry c s).row = s.row := rfl
@[simp] theorem faultEntry_psi (c : ErrCode) (s : State) :
    (faultEntry c s).psi = s.psi := rfl
@[simp] theorem faultEntry_trace (c : ErrCode) (s : State) :
    (faultEntry c s).trace = s.trace := rfl
@[simp] theorem faultEntry_lcmd (c : ErrCode) (s : State) :
    (faultEntry c s).lcmd = s.lcmd := rfl
@[simp] theorem faultEntry_root (c : ErrCode) (s : State) :
    (faultEntry c s).root = s.root := rfl
@[simp] theorem faultEntry_mat (c : ErrCode) (s : State) :
    (faultEntry c s).mat = s.mat := rfl
@[simp] theorem faultEntry_matOld (c : ErrCode) (s : State) :
    (faultEntry c s).matOld = s.matOld := rfl
@[simp] theorem faultEntry_matReads (c : ErrCode) (s : State) :
    (faultEntry c s).matReads = s.matReads := rfl
@[simp] theorem faultEntry_inputs (c : ErrCode) (s : State) :
    (faultEntry c s).inputs = s.inputs := rfl
@[simp] theorem faultEntry_replies (c : ErrCode) (s : State) :
    (faultEntry c s).replies = s.replies := rfl
@[simp] theorem faultEntry_freeCount (c : ErrCode) (s : State) :
    (faultEntry c s).freeCount = s.freeCount := rfl

/-! ### emit -/

@[simp] theorem emit_opa (e : Event) (s : State) :
    (emit e s).opa = s.opa := rfl
@[simp] theorem emit_opb (e : Event) (s : State) :
    (emit e s).opb = s.opb := rfl
@[simp] theorem emit_res (e : Event) (s : State) :
    (emit e s).res = s.res := rfl
@[simp] theorem emit_ndim (e : Event) (s : State) :
    (emit e s).ndim = s.ndim := rfl
@[simp] theorem emit_target (e : Event) (s : State) :
    (emit e s).target = s.target := rfl
@[simp] theorem emit_mbase (e : Event) (s : State) :
    (emit e s).mbase = s.mbase := rfl
@[simp] theorem emit_ncfg (e : Event) (s : State) :
    (emit e s).ncfg = s.ncfg := rfl
@[simp] theorem emit_mcfg (e : Event) (s : State) :
    (emit e s).mcfg = s.mcfg := rfl
@[simp] theorem emit_nlen (e : Event) (s : State) :
    (emit e s).nlen = s.nlen := rfl
@[simp] theorem emit_logn (e : Event) (s : State) :
    (emit e s).logn = s.logn := rfl
@[simp] theorem emit_kexp (e : Event) (s : State) :
    (emit e s).kexp = s.kexp := rfl
@[simp] theorem emit_rowcnt (e : Event) (s : State) :
    (emit e s).rowcnt = s.rowcnt := rfl
@[simp] theorem emit_result (e : Event) (s : State) :
    (emit e s).result = s.result := rfl
@[simp] theorem emit_faultcmd (e : Event) (s : State) :
    (emit e s).faultcmd = s.faultcmd := rfl
@[simp] theorem emit_busy (e : Event) (s : State) :
    (emit e s).busy = s.busy := rfl
@[simp] theorem emit_err (e : Event) (s : State) :
    (emit e s).err = s.err := rfl
@[simp] theorem emit_cdone (e : Event) (s : State) :
    (emit e s).cdone = s.cdone := rfl
@[simp] theorem emit_errcode (e : Event) (s : State) :
    (emit e s).errcode = s.errcode := rfl
@[simp] theorem emit_phase (e : Event) (s : State) :
    (emit e s).phase = s.phase := rfl
@[simp] theorem emit_ie (e : Event) (s : State) :
    (emit e s).ie = s.ie := rfl
@[simp] theorem emit_row (e : Event) (s : State) :
    (emit e s).row = s.row := rfl
@[simp] theorem emit_psi (e : Event) (s : State) :
    (emit e s).psi = s.psi := rfl
@[simp] theorem emit_trace (e : Event) (s : State) :
    (emit e s).trace = s.trace ++ [e] := rfl
@[simp] theorem emit_lcmd (e : Event) (s : State) :
    (emit e s).lcmd = s.lcmd := rfl
@[simp] theorem emit_root (e : Event) (s : State) :
    (emit e s).root = s.root := rfl
@[simp] theorem emit_mat (e : Event) (s : State) :
    (emit e s).mat = s.mat := rfl
@[simp] theorem emit_matOld (e : Event) (s : State) :
    (emit e s).matOld = s.matOld := rfl
@[simp] theorem emit_matReads (e : Event) (s : State) :
    (emit e s).matReads = s.matReads := rfl
@[simp] theorem emit_inputs (e : Event) (s : State) :
    (emit e s).inputs = s.inputs := rfl
@[simp] theorem emit_replies (e : Event) (s : State) :
    (emit e s).replies = s.replies := rfl
@[simp] theorem emit_freeCount (e : Event) (s : State) :
    (emit e s).freeCount = s.freeCount := rfl

/-! ### issue -/

@[simp] theorem issue_opa (w : CmdWord) (s : State) :
    (issue w s).opa = s.opa := rfl
@[simp] theorem issue_opb (w : CmdWord) (s : State) :
    (issue w s).opb = s.opb := rfl
@[simp] theorem issue_res (w : CmdWord) (s : State) :
    (issue w s).res = s.res := rfl
@[simp] theorem issue_ndim (w : CmdWord) (s : State) :
    (issue w s).ndim = s.ndim := rfl
@[simp] theorem issue_target (w : CmdWord) (s : State) :
    (issue w s).target = s.target := rfl
@[simp] theorem issue_mbase (w : CmdWord) (s : State) :
    (issue w s).mbase = s.mbase := rfl
@[simp] theorem issue_ncfg (w : CmdWord) (s : State) :
    (issue w s).ncfg = s.ncfg := rfl
@[simp] theorem issue_mcfg (w : CmdWord) (s : State) :
    (issue w s).mcfg = s.mcfg := rfl
@[simp] theorem issue_nlen (w : CmdWord) (s : State) :
    (issue w s).nlen = s.nlen := rfl
@[simp] theorem issue_logn (w : CmdWord) (s : State) :
    (issue w s).logn = s.logn := rfl
@[simp] theorem issue_kexp (w : CmdWord) (s : State) :
    (issue w s).kexp = s.kexp := rfl
@[simp] theorem issue_rowcnt (w : CmdWord) (s : State) :
    (issue w s).rowcnt = s.rowcnt := rfl
@[simp] theorem issue_result (w : CmdWord) (s : State) :
    (issue w s).result = s.result := rfl
@[simp] theorem issue_faultcmd (w : CmdWord) (s : State) :
    (issue w s).faultcmd = s.faultcmd := rfl
@[simp] theorem issue_busy (w : CmdWord) (s : State) :
    (issue w s).busy = true := rfl
@[simp] theorem issue_err (w : CmdWord) (s : State) :
    (issue w s).err = s.err := rfl
@[simp] theorem issue_cdone (w : CmdWord) (s : State) :
    (issue w s).cdone = false := rfl
@[simp] theorem issue_errcode (w : CmdWord) (s : State) :
    (issue w s).errcode = s.errcode := rfl
@[simp] theorem issue_phase (w : CmdWord) (s : State) :
    (issue w s).phase = s.phase := rfl
@[simp] theorem issue_ie (w : CmdWord) (s : State) :
    (issue w s).ie = s.ie := rfl
@[simp] theorem issue_row (w : CmdWord) (s : State) :
    (issue w s).row = s.row := rfl
@[simp] theorem issue_psi (w : CmdWord) (s : State) :
    (issue w s).psi = s.psi := rfl
@[simp] theorem issue_trace (w : CmdWord) (s : State) :
    (issue w s).trace = s.trace := rfl
@[simp] theorem issue_lcmd (w : CmdWord) (s : State) :
    (issue w s).lcmd = w := rfl
@[simp] theorem issue_root (w : CmdWord) (s : State) :
    (issue w s).root = s.root := rfl
@[simp] theorem issue_mat (w : CmdWord) (s : State) :
    (issue w s).mat = s.mat := rfl
@[simp] theorem issue_matOld (w : CmdWord) (s : State) :
    (issue w s).matOld = s.matOld := rfl
@[simp] theorem issue_matReads (w : CmdWord) (s : State) :
    (issue w s).matReads = s.matReads := rfl
@[simp] theorem issue_inputs (w : CmdWord) (s : State) :
    (issue w s).inputs = s.inputs := rfl
@[simp] theorem issue_replies (w : CmdWord) (s : State) :
    (issue w s).replies = s.replies := rfl
@[simp] theorem issue_freeCount (w : CmdWord) (s : State) :
    (issue w s).freeCount = s.freeCount := rfl

/-! ### resetBlock -/

@[simp] theorem resetBlock_opa (s : State) :
    (resetBlock s).opa = 0 := rfl
@[simp] theorem resetBlock_opb (s : State) :
    (resetBlock s).opb = 0 := rfl
@[simp] theorem resetBlock_res (s : State) :
    (resetBlock s).res = 0 := rfl
@[simp] theorem resetBlock_ndim (s : State) :
    (resetBlock s).ndim = 0 := rfl
@[simp] theorem resetBlock_target (s : State) :
    (resetBlock s).target = 0 := rfl
@[simp] theorem resetBlock_mbase (s : State) :
    (resetBlock s).mbase = 0 := rfl
@[simp] theorem resetBlock_ncfg (s : State) :
    (resetBlock s).ncfg = 0 := rfl
@[simp] theorem resetBlock_mcfg (s : State) :
    (resetBlock s).mcfg = 0 := rfl
@[simp] theorem resetBlock_nlen (s : State) :
    (resetBlock s).nlen = 0 := rfl
@[simp] theorem resetBlock_logn (s : State) :
    (resetBlock s).logn = 0 := rfl
@[simp] theorem resetBlock_kexp (s : State) :
    (resetBlock s).kexp = 0 := rfl
@[simp] theorem resetBlock_rowcnt (s : State) :
    (resetBlock s).rowcnt = 0 := rfl
@[simp] theorem resetBlock_result (s : State) :
    (resetBlock s).result = 0 := rfl
@[simp] theorem resetBlock_faultcmd (s : State) :
    (resetBlock s).faultcmd = 0 := rfl
@[simp] theorem resetBlock_busy (s : State) :
    (resetBlock s).busy = false := rfl
@[simp] theorem resetBlock_err (s : State) :
    (resetBlock s).err = false := rfl
@[simp] theorem resetBlock_cdone (s : State) :
    (resetBlock s).cdone = false := rfl
@[simp] theorem resetBlock_errcode (s : State) :
    (resetBlock s).errcode = .none := rfl
@[simp] theorem resetBlock_phase (s : State) :
    (resetBlock s).phase = .unconf := rfl
@[simp] theorem resetBlock_ie (s : State) :
    (resetBlock s).ie = false := rfl
@[simp] theorem resetBlock_row (s : State) :
    (resetBlock s).row = [] := rfl
@[simp] theorem resetBlock_psi (s : State) :
    (resetBlock s).psi = [] := rfl
@[simp] theorem resetBlock_trace (s : State) :
    (resetBlock s).trace = [] := rfl
@[simp] theorem resetBlock_lcmd (s : State) :
    (resetBlock s).lcmd = 0 := rfl
@[simp] theorem resetBlock_root (s : State) :
    (resetBlock s).root = s.root := rfl
@[simp] theorem resetBlock_mat (s : State) :
    (resetBlock s).mat = s.mat := rfl
@[simp] theorem resetBlock_matOld (s : State) :
    (resetBlock s).matOld = [] := rfl
@[simp] theorem resetBlock_matReads (s : State) :
    (resetBlock s).matReads = s.matReads := rfl
@[simp] theorem resetBlock_inputs (s : State) :
    (resetBlock s).inputs = s.inputs := rfl
@[simp] theorem resetBlock_replies (s : State) :
    (resetBlock s).replies = s.replies := rfl
@[simp] theorem resetBlock_freeCount (s : State) :
    (resetBlock s).freeCount = s.freeCount := rfl

/-! ### placeMat -/

@[simp] theorem placeMat_opa (a : Word) (r : MatAnswer) (s : State) :
    (placeMat a r s).opa = s.opa := rfl
@[simp] theorem placeMat_opb (a : Word) (r : MatAnswer) (s : State) :
    (placeMat a r s).opb = s.opb := rfl
@[simp] theorem placeMat_res (a : Word) (r : MatAnswer) (s : State) :
    (placeMat a r s).res = s.res := rfl
@[simp] theorem placeMat_ndim (a : Word) (r : MatAnswer) (s : State) :
    (placeMat a r s).ndim = s.ndim := rfl
@[simp] theorem placeMat_target (a : Word) (r : MatAnswer) (s : State) :
    (placeMat a r s).target = s.target := rfl
@[simp] theorem placeMat_mbase (a : Word) (r : MatAnswer) (s : State) :
    (placeMat a r s).mbase = s.mbase := rfl
@[simp] theorem placeMat_ncfg (a : Word) (r : MatAnswer) (s : State) :
    (placeMat a r s).ncfg = s.ncfg := rfl
@[simp] theorem placeMat_mcfg (a : Word) (r : MatAnswer) (s : State) :
    (placeMat a r s).mcfg = s.mcfg := rfl
@[simp] theorem placeMat_nlen (a : Word) (r : MatAnswer) (s : State) :
    (placeMat a r s).nlen = s.nlen := rfl
@[simp] theorem placeMat_logn (a : Word) (r : MatAnswer) (s : State) :
    (placeMat a r s).logn = s.logn := rfl
@[simp] theorem placeMat_kexp (a : Word) (r : MatAnswer) (s : State) :
    (placeMat a r s).kexp = s.kexp := rfl
@[simp] theorem placeMat_rowcnt (a : Word) (r : MatAnswer) (s : State) :
    (placeMat a r s).rowcnt = s.rowcnt := rfl
@[simp] theorem placeMat_result (a : Word) (r : MatAnswer) (s : State) :
    (placeMat a r s).result = s.result := rfl
@[simp] theorem placeMat_faultcmd (a : Word) (r : MatAnswer) (s : State) :
    (placeMat a r s).faultcmd = s.faultcmd := rfl
@[simp] theorem placeMat_busy (a : Word) (r : MatAnswer) (s : State) :
    (placeMat a r s).busy = s.busy := rfl
@[simp] theorem placeMat_err (a : Word) (r : MatAnswer) (s : State) :
    (placeMat a r s).err = s.err := rfl
@[simp] theorem placeMat_cdone (a : Word) (r : MatAnswer) (s : State) :
    (placeMat a r s).cdone = s.cdone := rfl
@[simp] theorem placeMat_errcode (a : Word) (r : MatAnswer) (s : State) :
    (placeMat a r s).errcode = s.errcode := rfl
@[simp] theorem placeMat_phase (a : Word) (r : MatAnswer) (s : State) :
    (placeMat a r s).phase = s.phase := rfl
@[simp] theorem placeMat_ie (a : Word) (r : MatAnswer) (s : State) :
    (placeMat a r s).ie = s.ie := rfl
@[simp] theorem placeMat_row (a : Word) (r : MatAnswer) (s : State) :
    (placeMat a r s).row = s.row := rfl
@[simp] theorem placeMat_psi (a : Word) (r : MatAnswer) (s : State) :
    (placeMat a r s).psi = s.psi := rfl
@[simp] theorem placeMat_trace (a : Word) (r : MatAnswer) (s : State) :
    (placeMat a r s).trace = s.trace := rfl
@[simp] theorem placeMat_lcmd (a : Word) (r : MatAnswer) (s : State) :
    (placeMat a r s).lcmd = s.lcmd := rfl
@[simp] theorem placeMat_root (a : Word) (r : MatAnswer) (s : State) :
    (placeMat a r s).root = s.root := rfl
@[simp] theorem placeMat_mat (a : Word) (r : MatAnswer) (s : State) :
    (placeMat a r s).mat = s.mat.place a r := rfl
@[simp] theorem placeMat_matOld (a : Word) (r : MatAnswer) (s : State) :
    (placeMat a r s).matOld = if s.busy then s.mat :: s.matOld else s.matOld := rfl
@[simp] theorem placeMat_matReads (a : Word) (r : MatAnswer) (s : State) :
    (placeMat a r s).matReads = s.matReads := rfl
@[simp] theorem placeMat_inputs (a : Word) (r : MatAnswer) (s : State) :
    (placeMat a r s).inputs = s.inputs := rfl
@[simp] theorem placeMat_replies (a : Word) (r : MatAnswer) (s : State) :
    (placeMat a r s).replies = s.replies := rfl
@[simp] theorem placeMat_freeCount (a : Word) (r : MatAnswer) (s : State) :
    (placeMat a r s).freeCount = if s.busy then s.freeCount + 1 else s.freeCount := rfl

/-! ### reply -/

@[simp] theorem reply_opa (r : Reply) (s : State) :
    (reply r s).opa = s.opa := rfl
@[simp] theorem reply_opb (r : Reply) (s : State) :
    (reply r s).opb = s.opb := rfl
@[simp] theorem reply_res (r : Reply) (s : State) :
    (reply r s).res = s.res := rfl
@[simp] theorem reply_ndim (r : Reply) (s : State) :
    (reply r s).ndim = s.ndim := rfl
@[simp] theorem reply_target (r : Reply) (s : State) :
    (reply r s).target = s.target := rfl
@[simp] theorem reply_mbase (r : Reply) (s : State) :
    (reply r s).mbase = s.mbase := rfl
@[simp] theorem reply_ncfg (r : Reply) (s : State) :
    (reply r s).ncfg = s.ncfg := rfl
@[simp] theorem reply_mcfg (r : Reply) (s : State) :
    (reply r s).mcfg = s.mcfg := rfl
@[simp] theorem reply_nlen (r : Reply) (s : State) :
    (reply r s).nlen = s.nlen := rfl
@[simp] theorem reply_logn (r : Reply) (s : State) :
    (reply r s).logn = s.logn := rfl
@[simp] theorem reply_kexp (r : Reply) (s : State) :
    (reply r s).kexp = s.kexp := rfl
@[simp] theorem reply_rowcnt (r : Reply) (s : State) :
    (reply r s).rowcnt = s.rowcnt := rfl
@[simp] theorem reply_result (r : Reply) (s : State) :
    (reply r s).result = s.result := rfl
@[simp] theorem reply_faultcmd (r : Reply) (s : State) :
    (reply r s).faultcmd = s.faultcmd := rfl
@[simp] theorem reply_busy (r : Reply) (s : State) :
    (reply r s).busy = s.busy := rfl
@[simp] theorem reply_err (r : Reply) (s : State) :
    (reply r s).err = s.err := rfl
@[simp] theorem reply_cdone (r : Reply) (s : State) :
    (reply r s).cdone = s.cdone := rfl
@[simp] theorem reply_errcode (r : Reply) (s : State) :
    (reply r s).errcode = s.errcode := rfl
@[simp] theorem reply_phase (r : Reply) (s : State) :
    (reply r s).phase = s.phase := rfl
@[simp] theorem reply_ie (r : Reply) (s : State) :
    (reply r s).ie = s.ie := rfl
@[simp] theorem reply_row (r : Reply) (s : State) :
    (reply r s).row = s.row := rfl
@[simp] theorem reply_psi (r : Reply) (s : State) :
    (reply r s).psi = s.psi := rfl
@[simp] theorem reply_trace (r : Reply) (s : State) :
    (reply r s).trace = s.trace := rfl
@[simp] theorem reply_lcmd (r : Reply) (s : State) :
    (reply r s).lcmd = s.lcmd := rfl
@[simp] theorem reply_root (r : Reply) (s : State) :
    (reply r s).root = s.root := rfl
@[simp] theorem reply_mat (r : Reply) (s : State) :
    (reply r s).mat = s.mat := rfl
@[simp] theorem reply_matOld (r : Reply) (s : State) :
    (reply r s).matOld = s.matOld := rfl
@[simp] theorem reply_matReads (r : Reply) (s : State) :
    (reply r s).matReads = s.matReads := rfl
@[simp] theorem reply_inputs (r : Reply) (s : State) :
    (reply r s).inputs = s.inputs := rfl
@[simp] theorem reply_replies (r : Reply) (s : State) :
    (reply r s).replies = s.replies ++ [r] := rfl
@[simp] theorem reply_freeCount (r : Reply) (s : State) :
    (reply r s).freeCount = s.freeCount := rfl

/-! ### enterFused -/

@[simp] theorem enterFused_opa (s : State) :
    (enterFused s).opa = s.opa := rfl
@[simp] theorem enterFused_opb (s : State) :
    (enterFused s).opb = s.opb := rfl
@[simp] theorem enterFused_res (s : State) :
    (enterFused s).res = s.res := rfl
@[simp] theorem enterFused_ndim (s : State) :
    (enterFused s).ndim = s.ndim := rfl
@[simp] theorem enterFused_target (s : State) :
    (enterFused s).target = s.target := rfl
@[simp] theorem enterFused_mbase (s : State) :
    (enterFused s).mbase = s.mbase := rfl
@[simp] theorem enterFused_ncfg (s : State) :
    (enterFused s).ncfg = s.ncfg := rfl
@[simp] theorem enterFused_mcfg (s : State) :
    (enterFused s).mcfg = s.mcfg := rfl
@[simp] theorem enterFused_nlen (s : State) :
    (enterFused s).nlen = s.nlen := rfl
@[simp] theorem enterFused_logn (s : State) :
    (enterFused s).logn = s.logn := rfl
@[simp] theorem enterFused_kexp (s : State) :
    (enterFused s).kexp = s.kexp := rfl
@[simp] theorem enterFused_rowcnt (s : State) :
    (enterFused s).rowcnt = s.rowcnt := rfl
@[simp] theorem enterFused_result (s : State) :
    (enterFused s).result = s.result := rfl
@[simp] theorem enterFused_faultcmd (s : State) :
    (enterFused s).faultcmd = s.faultcmd := rfl
@[simp] theorem enterFused_busy (s : State) :
    (enterFused s).busy = s.busy := rfl
@[simp] theorem enterFused_err (s : State) :
    (enterFused s).err = s.err := rfl
@[simp] theorem enterFused_cdone (s : State) :
    (enterFused s).cdone = s.cdone := rfl
@[simp] theorem enterFused_errcode (s : State) :
    (enterFused s).errcode = s.errcode := rfl
@[simp] theorem enterFused_phase (s : State) :
    (enterFused s).phase = .fused := rfl
@[simp] theorem enterFused_ie (s : State) :
    (enterFused s).ie = s.ie := rfl
@[simp] theorem enterFused_row (s : State) :
    (enterFused s).row = s.row := rfl
@[simp] theorem enterFused_psi (s : State) :
    (enterFused s).psi = s.psi := rfl
@[simp] theorem enterFused_trace (s : State) :
    (enterFused s).trace = s.trace ++ [.phaseDone .fusion] := rfl
@[simp] theorem enterFused_lcmd (s : State) :
    (enterFused s).lcmd = s.lcmd := rfl
@[simp] theorem enterFused_root (s : State) :
    (enterFused s).root = s.root := rfl
@[simp] theorem enterFused_mat (s : State) :
    (enterFused s).mat = s.mat := rfl
@[simp] theorem enterFused_matOld (s : State) :
    (enterFused s).matOld = s.matOld := rfl
@[simp] theorem enterFused_matReads (s : State) :
    (enterFused s).matReads = s.matReads := rfl
@[simp] theorem enterFused_inputs (s : State) :
    (enterFused s).inputs = s.inputs := rfl
@[simp] theorem enterFused_replies (s : State) :
    (enterFused s).replies = s.replies := rfl
@[simp] theorem enterFused_freeCount (s : State) :
    (enterFused s).freeCount = s.freeCount := rfl

/-! ### setBuf -/

@[simp] theorem setBuf_opa (b : Buf) (x : List Residue) (s : State) :
    (setBuf b x s).opa = s.opa := by cases b <;> rfl
@[simp] theorem setBuf_opb (b : Buf) (x : List Residue) (s : State) :
    (setBuf b x s).opb = s.opb := by cases b <;> rfl
@[simp] theorem setBuf_res (b : Buf) (x : List Residue) (s : State) :
    (setBuf b x s).res = s.res := by cases b <;> rfl
@[simp] theorem setBuf_ndim (b : Buf) (x : List Residue) (s : State) :
    (setBuf b x s).ndim = s.ndim := by cases b <;> rfl
@[simp] theorem setBuf_target (b : Buf) (x : List Residue) (s : State) :
    (setBuf b x s).target = s.target := by cases b <;> rfl
@[simp] theorem setBuf_mbase (b : Buf) (x : List Residue) (s : State) :
    (setBuf b x s).mbase = s.mbase := by cases b <;> rfl
@[simp] theorem setBuf_ncfg (b : Buf) (x : List Residue) (s : State) :
    (setBuf b x s).ncfg = s.ncfg := by cases b <;> rfl
@[simp] theorem setBuf_mcfg (b : Buf) (x : List Residue) (s : State) :
    (setBuf b x s).mcfg = s.mcfg := by cases b <;> rfl
@[simp] theorem setBuf_nlen (b : Buf) (x : List Residue) (s : State) :
    (setBuf b x s).nlen = s.nlen := by cases b <;> rfl
@[simp] theorem setBuf_logn (b : Buf) (x : List Residue) (s : State) :
    (setBuf b x s).logn = s.logn := by cases b <;> rfl
@[simp] theorem setBuf_kexp (b : Buf) (x : List Residue) (s : State) :
    (setBuf b x s).kexp = s.kexp := by cases b <;> rfl
@[simp] theorem setBuf_rowcnt (b : Buf) (x : List Residue) (s : State) :
    (setBuf b x s).rowcnt = s.rowcnt := by cases b <;> rfl
@[simp] theorem setBuf_result (b : Buf) (x : List Residue) (s : State) :
    (setBuf b x s).result = s.result := by cases b <;> rfl
@[simp] theorem setBuf_faultcmd (b : Buf) (x : List Residue) (s : State) :
    (setBuf b x s).faultcmd = s.faultcmd := by cases b <;> rfl
@[simp] theorem setBuf_busy (b : Buf) (x : List Residue) (s : State) :
    (setBuf b x s).busy = s.busy := by cases b <;> rfl
@[simp] theorem setBuf_err (b : Buf) (x : List Residue) (s : State) :
    (setBuf b x s).err = s.err := by cases b <;> rfl
@[simp] theorem setBuf_cdone (b : Buf) (x : List Residue) (s : State) :
    (setBuf b x s).cdone = s.cdone := by cases b <;> rfl
@[simp] theorem setBuf_errcode (b : Buf) (x : List Residue) (s : State) :
    (setBuf b x s).errcode = s.errcode := by cases b <;> rfl
@[simp] theorem setBuf_phase (b : Buf) (x : List Residue) (s : State) :
    (setBuf b x s).phase = s.phase := by cases b <;> rfl
@[simp] theorem setBuf_ie (b : Buf) (x : List Residue) (s : State) :
    (setBuf b x s).ie = s.ie := by cases b <;> rfl
@[simp] theorem setBuf_trace (b : Buf) (x : List Residue) (s : State) :
    (setBuf b x s).trace = s.trace := by cases b <;> rfl
@[simp] theorem setBuf_lcmd (b : Buf) (x : List Residue) (s : State) :
    (setBuf b x s).lcmd = s.lcmd := by cases b <;> rfl
@[simp] theorem setBuf_root (b : Buf) (x : List Residue) (s : State) :
    (setBuf b x s).root = s.root := by cases b <;> rfl
@[simp] theorem setBuf_mat (b : Buf) (x : List Residue) (s : State) :
    (setBuf b x s).mat = s.mat := by cases b <;> rfl
@[simp] theorem setBuf_matOld (b : Buf) (x : List Residue) (s : State) :
    (setBuf b x s).matOld = s.matOld := by cases b <;> rfl
@[simp] theorem setBuf_matReads (b : Buf) (x : List Residue) (s : State) :
    (setBuf b x s).matReads = s.matReads := by cases b <;> rfl
@[simp] theorem setBuf_inputs (b : Buf) (x : List Residue) (s : State) :
    (setBuf b x s).inputs = s.inputs := by cases b <;> rfl
@[simp] theorem setBuf_replies (b : Buf) (x : List Residue) (s : State) :
    (setBuf b x s).replies = s.replies := by cases b <;> rfl
@[simp] theorem setBuf_freeCount (b : Buf) (x : List Residue) (s : State) :
    (setBuf b x s).freeCount = s.freeCount := by cases b <;> rfl

/-! ### advanceRow -/

@[simp] theorem advanceRow_opa (s : State) :
    (advanceRow s).opa = s.opa := by unfold advanceRow; split <;> rfl
@[simp] theorem advanceRow_opb (s : State) :
    (advanceRow s).opb = s.opb := by unfold advanceRow; split <;> rfl
@[simp] theorem advanceRow_res (s : State) :
    (advanceRow s).res = s.res := by unfold advanceRow; split <;> rfl
@[simp] theorem advanceRow_ndim (s : State) :
    (advanceRow s).ndim = s.ndim := by unfold advanceRow; split <;> rfl
@[simp] theorem advanceRow_target (s : State) :
    (advanceRow s).target = s.target := by unfold advanceRow; split <;> rfl
@[simp] theorem advanceRow_mbase (s : State) :
    (advanceRow s).mbase = s.mbase := by unfold advanceRow; split <;> rfl
@[simp] theorem advanceRow_ncfg (s : State) :
    (advanceRow s).ncfg = s.ncfg := by unfold advanceRow; split <;> rfl
@[simp] theorem advanceRow_mcfg (s : State) :
    (advanceRow s).mcfg = s.mcfg := by unfold advanceRow; split <;> rfl
@[simp] theorem advanceRow_nlen (s : State) :
    (advanceRow s).nlen = s.nlen := by unfold advanceRow; split <;> rfl
@[simp] theorem advanceRow_logn (s : State) :
    (advanceRow s).logn = s.logn := by unfold advanceRow; split <;> rfl
@[simp] theorem advanceRow_kexp (s : State) :
    (advanceRow s).kexp = s.kexp := by unfold advanceRow; split <;> rfl
@[simp] theorem advanceRow_rowcnt (s : State) :
    (advanceRow s).rowcnt = s.rowcnt + 1 := by unfold advanceRow; split <;> rfl
@[simp] theorem advanceRow_result (s : State) :
    (advanceRow s).result = s.result := by unfold advanceRow; split <;> rfl
@[simp] theorem advanceRow_faultcmd (s : State) :
    (advanceRow s).faultcmd = s.faultcmd := by unfold advanceRow; split <;> rfl
@[simp] theorem advanceRow_busy (s : State) :
    (advanceRow s).busy = s.busy := by unfold advanceRow; split <;> rfl
@[simp] theorem advanceRow_err (s : State) :
    (advanceRow s).err = s.err := by unfold advanceRow; split <;> rfl
@[simp] theorem advanceRow_cdone (s : State) :
    (advanceRow s).cdone = s.cdone := by unfold advanceRow; split <;> rfl
@[simp] theorem advanceRow_errcode (s : State) :
    (advanceRow s).errcode = s.errcode := by unfold advanceRow; split <;> rfl
@[simp] theorem advanceRow_ie (s : State) :
    (advanceRow s).ie = s.ie := by unfold advanceRow; split <;> rfl
@[simp] theorem advanceRow_row (s : State) :
    (advanceRow s).row = s.row := by unfold advanceRow; split <;> rfl
@[simp] theorem advanceRow_psi (s : State) :
    (advanceRow s).psi = s.psi := by unfold advanceRow; split <;> rfl
@[simp] theorem advanceRow_lcmd (s : State) :
    (advanceRow s).lcmd = s.lcmd := by unfold advanceRow; split <;> rfl
@[simp] theorem advanceRow_root (s : State) :
    (advanceRow s).root = s.root := by unfold advanceRow; split <;> rfl
@[simp] theorem advanceRow_mat (s : State) :
    (advanceRow s).mat = s.mat := by unfold advanceRow; split <;> rfl
@[simp] theorem advanceRow_matOld (s : State) :
    (advanceRow s).matOld = s.matOld := by unfold advanceRow; split <;> rfl
@[simp] theorem advanceRow_matReads (s : State) :
    (advanceRow s).matReads = s.matReads := by unfold advanceRow; split <;> rfl
@[simp] theorem advanceRow_inputs (s : State) :
    (advanceRow s).inputs = s.inputs := by unfold advanceRow; split <;> rfl
@[simp] theorem advanceRow_replies (s : State) :
    (advanceRow s).replies = s.replies := by unfold advanceRow; split <;> rfl
@[simp] theorem advanceRow_freeCount (s : State) :
    (advanceRow s).freeCount = s.freeCount := by unfold advanceRow; split <;> rfl

/-! ### construct -/

@[simp] theorem construct_opa (n m : Nat) (s : State) :
    (construct n m s).opa = s.opa := by unfold construct; split <;> rfl
@[simp] theorem construct_opb (n m : Nat) (s : State) :
    (construct n m s).opb = s.opb := by unfold construct; split <;> rfl
@[simp] theorem construct_res (n m : Nat) (s : State) :
    (construct n m s).res = s.res := by unfold construct; split <;> rfl
@[simp] theorem construct_ndim (n m : Nat) (s : State) :
    (construct n m s).ndim = s.ndim := by unfold construct; split <;> rfl
@[simp] theorem construct_target (n m : Nat) (s : State) :
    (construct n m s).target = s.target := by unfold construct; split <;> rfl
@[simp] theorem construct_mbase (n m : Nat) (s : State) :
    (construct n m s).mbase = s.mbase := by unfold construct; split <;> rfl
@[simp] theorem construct_ncfg (n m : Nat) (s : State) :
    (construct n m s).ncfg = BitVec.ofNat 31 n := by unfold construct; split <;> rfl
@[simp] theorem construct_mcfg (n m : Nat) (s : State) :
    (construct n m s).mcfg = s.mbase := by unfold construct; split <;> rfl
@[simp] theorem construct_nlen (n m : Nat) (s : State) :
    (construct n m s).nlen = BitVec.ofNat 15 (2 ^ m) := by unfold construct; split <;> rfl
@[simp] theorem construct_logn (n m : Nat) (s : State) :
    (construct n m s).logn = BitVec.ofNat 4 m := by unfold construct; split <;> rfl
@[simp] theorem construct_kexp (n m : Nat) (s : State) :
    (construct n m s).kexp = BitVec.ofNat 64 (kExp n m) := by unfold construct; split <;> rfl
@[simp] theorem construct_rowcnt (n m : Nat) (s : State) :
    (construct n m s).rowcnt = 0 := by unfold construct; split <;> rfl
@[simp] theorem construct_result (n m : Nat) (s : State) :
    (construct n m s).result = 0 := by unfold construct; split <;> rfl
@[simp] theorem construct_faultcmd (n m : Nat) (s : State) :
    (construct n m s).faultcmd = s.faultcmd := by unfold construct; split <;> rfl
@[simp] theorem construct_busy (n m : Nat) (s : State) :
    (construct n m s).busy = s.busy := by unfold construct; split <;> rfl
@[simp] theorem construct_err (n m : Nat) (s : State) :
    (construct n m s).err = s.err := by unfold construct; split <;> rfl
@[simp] theorem construct_cdone (n m : Nat) (s : State) :
    (construct n m s).cdone = s.cdone := by unfold construct; split <;> rfl
@[simp] theorem construct_errcode (n m : Nat) (s : State) :
    (construct n m s).errcode = s.errcode := by unfold construct; split <;> rfl
@[simp] theorem construct_phase (n m : Nat) (s : State) :
    (construct n m s).phase = if n = 0 then .fused else .fusion := by unfold construct; split <;> rfl
@[simp] theorem construct_ie (n m : Nat) (s : State) :
    (construct n m s).ie = s.ie := by unfold construct; split <;> rfl
@[simp] theorem construct_row (n m : Nat) (s : State) :
    (construct n m s).row = List.replicate (2 ^ m) 0 := by unfold construct; split <;> rfl
@[simp] theorem construct_psi (n m : Nat) (s : State) :
    (construct n m s).psi = List.replicate (2 ^ m) 1 := by unfold construct; split <;> rfl
@[simp] theorem construct_trace (n m : Nat) (s : State) :
    (construct n m s).trace = if n = 0 then s.trace ++ [.phaseDone .fusion] else s.trace := by unfold construct; split <;> rfl
@[simp] theorem construct_lcmd (n m : Nat) (s : State) :
    (construct n m s).lcmd = s.lcmd := by unfold construct; split <;> rfl
@[simp] theorem construct_root (n m : Nat) (s : State) :
    (construct n m s).root = s.root := by unfold construct; split <;> rfl
@[simp] theorem construct_mat (n m : Nat) (s : State) :
    (construct n m s).mat = s.mat := by unfold construct; split <;> rfl
@[simp] theorem construct_matOld (n m : Nat) (s : State) :
    (construct n m s).matOld = s.matOld := by unfold construct; split <;> rfl
@[simp] theorem construct_matReads (n m : Nat) (s : State) :
    (construct n m s).matReads = s.matReads := by unfold construct; split <;> rfl
@[simp] theorem construct_inputs (n m : Nat) (s : State) :
    (construct n m s).inputs = s.inputs := by unfold construct; split <;> rfl
@[simp] theorem construct_replies (n m : Nat) (s : State) :
    (construct n m s).replies = s.replies := by unfold construct; split <;> rfl
@[simp] theorem construct_freeCount (n m : Nat) (s : State) :
    (construct n m s).freeCount = s.freeCount := by unfold construct; split <;> rfl

/-! ### Buffers -/

@[simp] theorem getBuf_setBuf_same (b : Buf) (x : List Residue) (s : State) :
    getBuf b (setBuf b x s) = x := by cases b <;> rfl

@[simp] theorem setBuf_row_psi (x : List Residue) (s : State) : (setBuf .row x s).psi = s.psi := rfl

@[simp] theorem setBuf_psi_row (x : List Residue) (s : State) : (setBuf .psi x s).row = s.row := rfl

@[simp] theorem setBuf_row_row (x : List Residue) (s : State) : (setBuf .row x s).row = x := rfl

@[simp] theorem setBuf_psi_psi (x : List Residue) (s : State) : (setBuf .psi x s).psi = x := rfl

@[simp] theorem setBuf_setBuf (b : Buf) (x y : List Residue) (s : State) :
    setBuf b y (setBuf b x s) = setBuf b y s := by cases b <;> rfl

@[simp] theorem advanceRow_phase (s : State) :
    (advanceRow s).phase = if s.rowcnt + 1 = s.ncfg then .fused else s.phase := by
  unfold advanceRow; split <;> rfl

@[simp] theorem advanceRow_trace (s : State) :
    (advanceRow s).trace = s.trace ++ .rowDone s.rowcnt ::
      (if s.rowcnt + 1 = s.ncfg then [.phaseDone .fusion] else []) := by
  unfold advanceRow
  split
  · exact List.append_assoc _ _ _
  · rfl

/-! ### The named end states of Safety -/

theorem completed_eq_finish (s : State) : completed s = finish s := rfl

theorem completedFault_eq (c : ErrCode) (s : State) : completedFault c s = finish (faultEntry c s) := rfl

end Sys2Proof.Machine
end

