-- ==== Sys2Proof/Laws/Ops.lean ====
section
/-! SUPPORT. What each shared operation can do, said once: the completion of a command, `do CMD`, the
matrix port, the pseudocode of each command, and `exec` itself. -/

namespace Sys2Proof.Machine

/-! ### `do CMD` -/

@[simp] theorem andThen_done (s : State) (k : State → Body) : (Body.done s).andThen k = k s := rfl

@[simp] theorem andThen_raise (c : ErrCode) (s : State) (k : State → Body) :
    (Body.raise c s).andThen k = .raise c s := rfl

@[simp] theorem andThen_stall (k : State → Body) : Body.stall.andThen k = .stall := rfl

/-- A sequence is done only if both parts are. -/
theorem andThen_eq_done {b : Body} {k : State → Body} {t : State} (h : b.andThen k = .done t) :
    ∃ u, b = .done u ∧ k u = .done t := by
  cases b with
  | done u => exact ⟨u, rfl, h⟩
  | raise c u => cases h
  | stall => cases h

/-- A sequence raises what its first part raises or what its second does. -/
theorem andThen_eq_raise {b : Body} {k : State → Body} {c : ErrCode} {t : State}
    (h : b.andThen k = .raise c t) : b = .raise c t ∨ ∃ u, b = .done u ∧ k u = .raise c t := by
  cases b with
  | done u => exact .inr ⟨u, rfl, h⟩
  | raise c' u => exact .inl h
  | stall => cases h

/-- A sequence stalls where its first part does or where its second does. -/
theorem andThen_eq_stall {b : Body} {k : State → Body} (h : b.andThen k = .stall) :
    b = .stall ∨ ∃ u, b = .done u ∧ k u = .stall := by
  cases b with
  | done u => exact .inr ⟨u, rfl, h⟩
  | raise c u => cases h
  | stall => exact .inl rfl

/-! ### Completion -/

@[simp] theorem complete_done (t s : State) : complete (.done t) s = .next (completed t) := rfl

/-- Fault entry at the end of a completion (60_exceptions.md R250). -/
@[simp] theorem complete_raise (c : ErrCode) (t s : State) :
    complete (.raise c t) s = .next (completedFault c t) := rfl

@[simp] theorem complete_stall (s : State) : complete .stall s = .next s := rfl

/-- A completion step always answers a next state: no command stops the machine. -/
theorem complete_next (b : Body) (s : State) : ∃ t, complete b s = .next t := by
  cases b <;> exact ⟨_, rfl⟩

/-- Everything the completion of a legal command can do (44_system.md R231). -/
theorem runCommand_cases (i : Instr) (body : State → Body) (s : State) :
    (phaseAllowed i s.phase = false ∧ runCommand i body s = .next (completedFault .seq s)) ∨
    (phaseAllowed i s.phase = true ∧
      ((∃ u, body s = .done u ∧ runCommand i body s = .next (completed u)) ∨
       (∃ c u, body s = .raise c u ∧ runCommand i body s = .next (completedFault c u)) ∨
       (body s = .stall ∧ runCommand i body s = .next s))) := by
  unfold runCommand
  cases hp : phaseAllowed i s.phase with
  | false => exact .inl ⟨rfl, rfl⟩
  | true =>
    refine .inr ⟨rfl, ?_⟩
    simp only [if_true]
    cases hb : body s with
    | done u => exact .inl ⟨u, rfl, rfl⟩
    | raise c u => exact .inr (.inl ⟨c, u, rfl, rfl⟩)
    | stall => exact .inr (.inr ⟨rfl, rfl⟩)

theorem runCommand_done {i : Instr} {body : State → Body} {s u : State}
    (hp : phaseAllowed i s.phase = true) (hb : body s = .done u) :
    runCommand i body s = .next (completed u) := by
  simp [runCommand, hp, hb]

theorem runCommand_raise {i : Instr} {body : State → Body} {s u : State} {c : ErrCode}
    (hp : phaseAllowed i s.phase = true) (hb : body s = .raise c u) :
    runCommand i body s = .next (completedFault c u) := by
  simp [runCommand, hp, hb]

theorem runCommand_stall {i : Instr} {body : State → Body} {s : State}
    (hp : phaseAllowed i s.phase = true) (hb : body s = .stall) :
    runCommand i body s = .next s := by
  simp [runCommand, hp, hb]

/-- The phase test of `runCommand` is the table of 43_orchestrator.md R212. -/
theorem phaseAllowed_iff (i : Instr) (p : Phase) :
    phaseAllowed i p = true ↔ p ∈ requiredPhases i := by
  cases i <;> cases p <;> simp [phaseAllowed, requiredPhases]

/-! ### The pseudocode of each command, and exec -/

/-- The pseudocode of a command. -/
def bodyOf : Instr → State → Body
  | .nop => nopBody
  | .modpow => modpowBody
  | .modinv => modinvBody
  | .bitrev b => bitrevBody b
  | .nttbf b d => nttbfBody b d
  | .ntt b d => nttBody b d
  | .fwht b d => fwhtBody b d
  | .scale b => scaleBody b
  | .pmul => pmulBody
  | .config t => configBody t
  | .encrow => encrowBody
  | .fuserow => fuserowBody
  | .mutate => mutateBody
  | .extract => extractBody
  | .compute t => computeBody t
  | .sreset => sresetBody

/-- `exec` is the completion of the command's pseudocode (44_system.md R231). -/
theorem exec_eq (i : Instr) (s : State) : exec i s = runCommand i (bodyOf i) s := by
  cases i <;> rfl

/-! ### The matrix port -/

/-- Where MAT has not changed since the issue, a read returns its contents (20_memory.md R88). -/
theorem matRead_stable (s : State) (a : Word) (h : s.matOld = []) :
    matRead s a = s.mat.answer a := by
  unfold matRead; rw [h]

/-- What a read returns depends on MAT, its earlier contents and the free value's counter alone. -/
theorem matRead_congr (s t : State) (a : Word) (h1 : t.mat = s.mat) (h2 : t.matOld = s.matOld)
    (h3 : t.freeCount = s.freeCount) : matRead t a = matRead s a := by
  unfold matRead; rw [h1, h2, h3]

/-! ### Transforms -/

/-- NTT on a buffer is NttSeq where NLEN = 2^LOGN (41_ntt.md R162). -/
theorem nttBody_eq (b : Buf) (d : Dir) (s : State) (h : s.nlen.toNat = 2 ^ s.logn.toNat) :
    nttBody b d s = .done (setBuf b (nttSeq s.root s.logn.toNat d (getBuf b s)) s) := by
  cases d <;> simp [nttBody, bitrevBody, nttbfBody, scaleBody, nttSeq, h]

/-- FWHT on a buffer is FwhtSeq where NLEN = 2^LOGN (42_fwht.md R182). -/
theorem fwhtBody_eq (b : Buf) (d : Dir) (s : State) (h : s.nlen.toNat = 2 ^ s.logn.toNat) :
    fwhtBody b d s = .done (setBuf b (fwhtSeq s.logn.toNat d (getBuf b s)) s) := by
  cases d <;> simp [fwhtBody, scaleBody, fwhtSeq, h]

/-- NTT is always done, and writes one buffer only. -/
theorem nttBody_done (b : Buf) (d : Dir) (s : State) : ∃ x, nttBody b d s = .done (setBuf b x s) := by
  cases d <;> simp only [nttBody, bitrevBody, nttbfBody, scaleBody, andThen_done, setBuf_setBuf] <;>
    exact ⟨_, rfl⟩

/-- FWHT is always done, and writes one buffer only. -/
theorem fwhtBody_done (b : Buf) (d : Dir) (s : State) :
    ∃ x, fwhtBody b d s = .done (setBuf b x s) := by
  cases d <;> simp only [fwhtBody, scaleBody, andThen_done, setBuf_setBuf] <;> exact ⟨_, rfl⟩

/-! ### The orchestrator -/

/-- Everything CONFIG can do (43_orchestrator.md R194). -/
theorem configBody_cases (t : SizeSel) (s : State) :
    ((dimension s < 0 ∨ rootOk s.root (2 ^ sizeLog (sizeSource t (dimension s).toNat s)) = false) ∧
      configBody t s = .raise .precond s) ∨
    (0 ≤ dimension s ∧ rootOk s.root (2 ^ sizeLog (sizeSource t (dimension s).toNat s)) = true ∧
      configBody t s = .done (construct (dimension s).toNat
        (sizeLog (sizeSource t (dimension s).toNat s)) s)) := by
  unfold configBody
  by_cases h : dimension s < 0
  · exact .inl ⟨.inl h, by rw [if_pos h]⟩
  · rw [if_neg h]
    cases hr : rootOk s.root (2 ^ sizeLog (sizeSource t (dimension s).toNat s)) with
    | false => exact .inl ⟨.inr rfl, by simp [hr]⟩
    | true => exact .inr ⟨by omega, rfl, by simp [hr]⟩

/-- The state ENCROW leaves when it is done. -/
def encoded (s : State) (buf : List Residue) : State :=
  { s with
    row := buf
    matReads := s.matReads ++ rowAddrs s.mcfg s.ncfg.toNat s.rowcnt.toNat s.ncfg.toNat }

/-- The state a MATERR at the k-th read of a row leaves (60_exceptions.md R246). -/
def encodeFailed (s : State) (k : Nat) : State :=
  { s with
    row := freeRow s
    freeCount := s.freeCount + 1
    matReads := s.matReads ++ rowAddrs s.mcfg s.ncfg.toNat s.rowcnt.toNat k }

/-- Everything ENCROW can do (43_orchestrator.md R197, 60_exceptions.md R246). -/
theorem encrowBody_cases (s : State) :
    (∃ buf, buf.length = s.nlen.toNat ∧ readRow s s.rowcnt.toNat = .row buf ∧
      encrowBody s = .done (encoded s buf)) ∨
    (∃ k, 0 < k ∧ k ≤ s.ncfg.toNat ∧ readRow s s.rowcnt.toNat = .failed k ∧
      encrowBody s = .raise .materr (encodeFailed s k)) ∨
    ((∃ a, matRead s a = .silent) ∧ encrowBody s = .stall) := by
  unfold encrowBody
  rcases readRow_cases s s.rowcnt.toNat with ⟨b, h1, h2⟩ | ⟨k, h1, h2, h3⟩ | ⟨h1, h2⟩
  · exact .inl ⟨b, h2, h1, by simp only [h1]; rfl⟩
  · exact .inr (.inl ⟨k, h2, h3, h1, by simp only [h1]; rfl⟩)
  · exact .inr (.inr ⟨h2, by simp only [h1]⟩)

/-- Everything FUSEROW can do (43_orchestrator.md R201). -/
theorem fuserowBody_cases (s : State) :
    (∃ row psi, fuserowBody s = .done (advanceRow
        { s with
          row := row
          psi := psi
          matReads := s.matReads ++ rowAddrs s.mcfg s.ncfg.toNat s.rowcnt.toNat s.ncfg.toNat })) ∨
    (∃ k, 0 < k ∧ k ≤ s.ncfg.toNat ∧ fuserowBody s = .raise .materr (encodeFailed s k)) ∨
    ((∃ a, matRead s a = .silent) ∧ fuserowBody s = .stall) := by
  unfold fuserowBody
  rcases encrowBody_cases s with ⟨b, _, _, h⟩ | ⟨k, h1, h2, _, h⟩ | ⟨h1, h⟩
  · obtain ⟨x, hx⟩ := nttBody_done .row .forward (encoded s b)
    exact .inl ⟨x, mulSeq s.psi x, by simp only [h, andThen_done, hx]; rfl⟩
  · exact .inr (.inl ⟨k, h1, h2, by simp [h]⟩)
  · exact .inr (.inr ⟨h1, by simp [h]⟩)

end Sys2Proof.Machine
end

