-- ==== Sys2Proof/Laws/Bus.lean ====
section
/-! SUPPORT. What the host bus and one step can do, said once (20_memory.md R78 to R95, 44_system.md
R238). -/

namespace Sys2Proof.Machine

/-- Everything the turn of the block can be: the state itself, or the state with a wait consumed. -/
theorem blockTurn_cases (s t : State) (h : blockTurn s = some t) :
    t = s ∨ ∃ rest, s.inputs = .wait :: rest ∧ t = { s with inputs := rest } := by
  unfold blockTurn at h
  split at h
  · exact .inl (by simpa using h.symm)
  · next rest hi => exact .inr ⟨rest, hi, by simpa using h.symm⟩
  · split at h
    · cases h
    · exact .inl (by simpa using h.symm)

theorem nextMove_nil {s : State} (h : s.inputs = []) : nextMove s = .next s := by
  unfold nextMove; rw [h]

theorem nextMove_cons {s : State} {m : Move} {rest : List Move} (h : s.inputs = m :: rest) :
    nextMove s = access m { s with inputs := rest } := by
  unfold nextMove; rw [h]

/-- The block has no turn only where the next move is one that takes place while BUSY = 1. -/
theorem blockTurn_none {s : State} (h : blockTurn s = none) :
    ∃ m rest, s.inputs = m :: rest ∧ overtakes m = true := by
  unfold blockTurn at h
  split at h
  · cases h
  · cases h
  · next m rest _ hi =>
    split at h
    · next ho => exact ⟨m, rest, hi, ho⟩
    · cases h

/-- While BUSY = 0 the step is the next move. -/
theorem step_idle {s : State} {m : Move} {rest : List Move} (hb : s.busy = false)
    (hi : s.inputs = m :: rest) : step s = access m { s with inputs := rest } := by
  have hstep : step s = if s.busy then
      (match blockTurn s with
      | some t => completion t
      | none => nextMove s) else nextMove s := rfl
  rw [hstep, if_neg (by simp [hb]), nextMove_cons hi]

/-- While BUSY = 1 the block's turn is the completion step. -/
theorem step_turn {s t : State} (hb : s.busy = true) (ht : blockTurn s = some t) :
    step s = completion t := by
  have hstep : step s = if s.busy then
      (match blockTurn s with
      | some t => completion t
      | none => nextMove s) else nextMove s := rfl
  rw [hstep, if_pos hb, ht]

/-- Element t of ROW in the address map (20_memory.md R72). -/
theorem placeOf_row (t : Nat) (h : t < 16384) : placeOf (0x20000 + 8 * t) = some (.elem .row t) := by
  have h1 : ¬ 0x20000 + 8 * t < 0xA0 := by omega
  have h2 : ¬ 0x20000 + 8 * t < 0x20000 := by omega
  have h3 : 0x20000 + 8 * t < 0x40000 := by omega
  have h4 : (0x20000 + 8 * t - 0x20000) / 8 = t := by omega
  unfold placeOf
  rw [if_neg h1, if_neg (show ¬ 0x20000 + 8 * t < bufBase .row from h2),
    if_pos (show 0x20000 + 8 * t < bufBase .psi from h3)]
  exact congrArg (fun i => some (Place.elem .row i)) h4

/-- Element t of PSI in the address map (20_memory.md R73). -/
theorem placeOf_psi (t : Nat) (h : t < 16384) : placeOf (0x40000 + 8 * t) = some (.elem .psi t) := by
  have h1 : ¬ 0x40000 + 8 * t < 0xA0 := by omega
  have h2 : ¬ 0x40000 + 8 * t < 0x20000 := by omega
  have h3 : ¬ 0x40000 + 8 * t < 0x40000 := by omega
  have h4 : 0x40000 + 8 * t < 0x60000 := by omega
  have h5 : (0x40000 + 8 * t - 0x40000) / 8 = t := by omega
  unfold placeOf
  rw [if_neg h1, if_neg (show ¬ 0x40000 + 8 * t < bufBase .row from h2),
    if_neg (show ¬ 0x40000 + 8 * t < bufBase .psi from h3),
    if_pos (show 0x40000 + 8 * t < windowSize from h4)]
  exact congrArg (fun i => some (Place.elem .psi i)) h5

/-- Everything one step can be: the completion of the latched command, the next move, or nothing. -/
theorem step_cases (s : State) :
    (∃ t, s.busy = true ∧ blockTurn s = some t ∧ step s = completion t) ∨
    (∃ m rest, s.inputs = m :: rest ∧ (s.busy = true → overtakes m = true) ∧
      step s = access m { s with inputs := rest }) ∨
    (s.busy = false ∧ s.inputs = [] ∧ step s = .next s) := by
  have hstep : step s = if s.busy then
      (match blockTurn s with
      | some t => completion t
      | none => nextMove s) else nextMove s := rfl
  by_cases hb : s.busy = true
  · rw [if_pos hb] at hstep
    cases ht : blockTurn s with
    | some t =>
      rw [ht] at hstep
      exact .inl ⟨t, hb, rfl, hstep⟩
    | none =>
      rw [ht] at hstep
      obtain ⟨m, rest, hi, ho⟩ := blockTurn_none ht
      exact .inr (.inl ⟨m, rest, hi, fun _ => ho, hstep.trans (nextMove_cons hi)⟩)
  · rw [if_neg hb] at hstep
    cases hi : s.inputs with
    | nil => exact .inr (.inr ⟨by simpa using hb, rfl, hstep.trans (nextMove_nil hi)⟩)
    | cons m rest =>
      exact .inr (.inl ⟨m, rest, rfl, fun h => absurd h hb, hstep.trans (nextMove_cons hi)⟩)

/-- Every command answers a next state: no meaning ends in a fault or a refusal of the machine. -/
theorem exec_next (i : Instr) (s : State) : ∃ t, exec i s = .next t := by
  rw [exec_eq]; exact complete_next _ _

/-- The completion step always answers a next state. -/
theorem completion_next (s : State) : ∃ t, completion s = .next t := by
  unfold completion
  split
  · rw [exec_eq]; exact complete_next _ _
  · exact complete_next _ _

/-- Everything an admitted write to a register can be (44_system.md R237). -/
theorem regWrite_cases (s t : State) (v : Word) (r : Reg) (h : regWrite s v r = some t) :
    (r = .cmd ∧ v.toNat < 2 ^ 32 ∧ (s.err = false ∨ v = 0x3F) ∧ t = issue (v.setWidth 32) s) ∨
    (r = .status ∧ (v = 0 ∧ t = s ∨ v = 0x10 ∧ t = { s with cdone := false })) ∨
    (r = .ctrl ∧ v.toNat < 2 ∧ t = { s with ie := v == 1 }) ∨
    (s.err = false ∧
      (r = .opa ∧ t = { s with opa := v } ∨ r = .opb ∧ t = { s with opb := v } ∨
       r = .ndim ∧ v.toNat < 2 ^ 32 ∧ t = { s with ndim := v.setWidth 32 } ∨
       r = .target ∧ t = { s with target := v } ∨ r = .mbase ∧ t = { s with mbase := v })) := by
  cases r <;> simp only [regWrite, ifNoErr] at h <;> (try split at h) <;> (try split at h) <;>
     simp_all

/-- Everything an admitted write to a buffer element can be (20_memory.md R82). -/
theorem hostWrite_cases (s t : State) (off width : Nat) (v : Word)
    (h : hostWrite s off width v = some t) :
    width = 64 ∧ off % 8 = 0 ∧
    ((∃ r, placeOf off = some (.reg r) ∧ regWrite s v r = some t) ∨
     (∃ b i, placeOf off = some (.elem b i) ∧ s.phase ≠ .unconf ∧ i < s.nlen.toNat ∧ v.toNat < Q ∧
       s.err = false ∧ t = setBuf b ((getBuf b s).set i (toResidue v.toNat)) s)) := by
  unfold hostWrite at h
  split at h
  · next hw =>
    simp only [wellShaped, Bool.and_eq_true, beq_iff_eq] at hw
    refine ⟨hw.1, hw.2, ?_⟩
    split at h
    · next r hr => exact .inl ⟨r, hr, h⟩
    · next b i hr =>
      right
      split at h
      · next hc =>
        simp only [reachable, Bool.and_eq_true, bne_iff_ne, decide_eq_true_eq] at hc
        unfold ifNoErr at h
        split at h
        · cases h
        · next he => exact ⟨b, i, hr, hc.1.1, hc.1.2, hc.2, by simpa using he, by simpa using h.symm⟩
      · cases h
    · cases h
  · cases h

/-- Everything one move of the host or the platform can do. -/
theorem access_next (m : Move) (s t : State) (h : access m s = .next t) :
    (∃ r, t = reply r s) ∨
    (∃ off width v u, m = .write off width v ∧ hostWrite s off width v = some u ∧ t = reply .ok u) ∨
    (m = .rst ∧ t = resetBlock s) ∨
    (∃ a r, m = .place a r ∧ t = placeMat a r s) ∨
    (m = .wait ∧ t = s) := by
  cases m with
  | read off width =>
    simp only [access] at h
    split at h
    · cases h
    · split at h
      · next v _ => cases h; exact .inl ⟨.data v, rfl⟩
      · cases h; exact .inl ⟨.error, rfl⟩
  | write off width v =>
    simp only [access] at h
    split at h
    · cases h
    · split at h
      · next u hu => cases h; exact .inr (.inl ⟨off, width, v, u, rfl, hu, rfl⟩)
      · cases h; exact .inl ⟨.error, rfl⟩
  | rst => cases h; exact .inr (.inr (.inl ⟨rfl, rfl⟩))
  | place a r => cases h; exact .inr (.inr (.inr (.inl ⟨a, r, rfl, rfl⟩)))
  | wait => cases h; exact .inr (.inr (.inr (.inr ⟨rfl, rfl⟩)))

end Sys2Proof.Machine
end

