-- ==== Sys2Proof/Laws/PerInstr.lean ====
section
/-! SUPPORT. Facts about every command as syntax, one lemma per constructor. -/

namespace Sys2Proof.Laws

/-- The word of a command splits into well-formed fields (30_encoding.md R101, R102). -/
def EncodesWellFormed.Statement (i : Instr) : Prop := (splitWord (encode i)).wellFormed = true

theorem EncodesWellFormed.nop : EncodesWellFormed.Statement .nop := by
  unfold EncodesWellFormed.Statement; decide

theorem EncodesWellFormed.modpow : EncodesWellFormed.Statement .modpow := by
  unfold EncodesWellFormed.Statement; decide

theorem EncodesWellFormed.modinv : EncodesWellFormed.Statement .modinv := by
  unfold EncodesWellFormed.Statement; decide

theorem EncodesWellFormed.bitrev (b : Buf) : EncodesWellFormed.Statement (.bitrev b) := by
  unfold EncodesWellFormed.Statement; cases b <;> decide

theorem EncodesWellFormed.nttbf (b : Buf) (d : Dir) : EncodesWellFormed.Statement (.nttbf b d) := by
  unfold EncodesWellFormed.Statement; cases b <;> cases d <;> decide

theorem EncodesWellFormed.ntt (b : Buf) (d : Dir) : EncodesWellFormed.Statement (.ntt b d) := by
  unfold EncodesWellFormed.Statement; cases b <;> cases d <;> decide

theorem EncodesWellFormed.fwht (b : Buf) (d : Dir) : EncodesWellFormed.Statement (.fwht b d) := by
  unfold EncodesWellFormed.Statement; cases b <;> cases d <;> decide

theorem EncodesWellFormed.scale (b : Buf) : EncodesWellFormed.Statement (.scale b) := by
  unfold EncodesWellFormed.Statement; cases b <;> decide

theorem EncodesWellFormed.pmul : EncodesWellFormed.Statement .pmul := by
  unfold EncodesWellFormed.Statement; decide

theorem EncodesWellFormed.config (t : SizeSel) : EncodesWellFormed.Statement (.config t) := by
  unfold EncodesWellFormed.Statement; cases t <;> decide

theorem EncodesWellFormed.encrow : EncodesWellFormed.Statement .encrow := by
  unfold EncodesWellFormed.Statement; decide

theorem EncodesWellFormed.fuserow : EncodesWellFormed.Statement .fuserow := by
  unfold EncodesWellFormed.Statement; decide

theorem EncodesWellFormed.mutate : EncodesWellFormed.Statement .mutate := by
  unfold EncodesWellFormed.Statement; decide

theorem EncodesWellFormed.extract : EncodesWellFormed.Statement .extract := by
  unfold EncodesWellFormed.Statement; decide

theorem EncodesWellFormed.compute (t : SizeSel) : EncodesWellFormed.Statement (.compute t) := by
  unfold EncodesWellFormed.Statement; cases t <;> decide

theorem EncodesWellFormed.sreset : EncodesWellFormed.Statement .sreset := by
  unfold EncodesWellFormed.Statement; decide

end Sys2Proof.Laws
end

