-- ==== Sys2Proof/Tests/Slice0.lean ====
section
/-! SUPPORT. Tests. Expected values are written out from the encoding tables of 30_encoding.md or taken
from 95_test_vectors.md (the part is named at each), never from the model's own answers. The second half
holds a witness for the hypotheses of each statement that has some. -/

namespace Sys2Proof.Tests
open Sys2Proof.Machine

-- Each test waits for the kernel's answer on the one before it; elaborated one by one they need no
-- thread each.
set_option Elab.async false

/-! ### Decoding, words of 30_encoding.md R107 and R111 -/

theorem test_decode_c0 :
    [0x001, 0x002, 0x015, 0x021, 0x022, 0x023, 0x024, 0x03F, 0x000].map decode =
      [some .modpow, some .modinv, some .pmul, some .encrow, some .fuserow, some .mutate,
        some .extract, some .sreset, some .nop] := by decide

theorem test_decode_cb :
    [0x010, 0x110, 0x014, 0x114].map decode =
      [some (.bitrev .row), some (.bitrev .psi), some (.scale .row), some (.scale .psi)] := by decide

theorem test_decode_nttbf :
    [0x011, 0x111, 0x211, 0x311].map decode =
      [some (.nttbf .row .forward), some (.nttbf .psi .forward), some (.nttbf .row .inverse),
        some (.nttbf .psi .inverse)] := by decide

theorem test_decode_ntt :
    [0x012, 0x112, 0x212, 0x312].map decode =
      [some (.ntt .row .forward), some (.ntt .psi .forward), some (.ntt .row .inverse),
        some (.ntt .psi .inverse)] := by decide

theorem test_decode_fwht :
    [0x013, 0x113, 0x213, 0x313].map decode =
      [some (.fwht .row .forward), some (.fwht .psi .forward), some (.fwht .row .inverse),
        some (.fwht .psi .inverse)] := by decide

theorem test_decode_ct :
    [0x020, 0x420, 0x025, 0x425].map decode =
      [some (.config .square), some (.config .target), some (.compute .square),
        some (.compute .target)] := by decide

/-- MODPOW with B, BITREV with I, NTT with T, CONFIG with B, SRESET with B, opcodes 0x03, 0x16, 0x26,
0x40 and 0xFF, and bits 11 and 31: all illegal (30_encoding.md R102, R109). -/
theorem test_decode_illegal :
    ([0x101, 0x210, 0x412, 0x120, 0x13F, 0x003, 0x016, 0x026, 0x040, 0x0FF, 0x800, 0x80000000].map
      decode).all Option.isNone = true := by decide

theorem test_decode_bytes_little_endian :
    decodeBytes [0x12, 0x03, 0x00, 0x00, 0xAA] = some (.ntt .psi .inverse, [0xAA]) ∧
    decodeBytes [0x12, 0x03, 0x00] = none := by decide

theorem test_decode_table_word :
    decodeTableWord 32 0x420 = some (.config .target) ∧ decodeTableWord 32 0x03 = none := by decide

/-- The smoke test of WellFormed: one ill-formed term for each check (30_encoding.md R101, R102). -/
theorem test_wellformed_unassigned_opcode :
    (Fields.mk 0x03 false false false 0).opcAssigned = false ∧
    (Fields.mk 0x03 false false false 0).wellFormed = false := by decide

theorem test_wellformed_reserved_bit :
    (Fields.mk 0x00 false false false 1).rsvZero = false ∧
    (Fields.mk 0x00 false false false 1).wellFormed = false := by decide

theorem test_wellformed_unused_bits :
    [Fields.mk 0x01 true false false 0, Fields.mk 0x10 false true false 0,
      Fields.mk 0x12 false false true 0, Fields.mk 0x25 false true false 0].map Fields.wellFormed =
      [false, false, false, false] := by decide

/-- The examples of 30_encoding.md R111 and the words of R112. -/
theorem test_asm :
    Instr.asm (.ntt .row .inverse) = "NTT.I ROW" ∧ Instr.asm (.config .target) = "CONFIG.T" ∧
    Instr.asm (.bitrev .psi) = "BITREV PSI" ∧ Instr.asm (.compute .square) = "COMPUTE" ∧
    encode (.intt .row) = 0x212 ∧ encode (.ifwht .psi) = 0x313 ∧ encode (.norm .psi) = 0x114 := by
  decide

/-! ### Small states -/

/-- One field of the next state; none where there is no next state. -/
def after {α : Type} (o : Outcome) (f : State → α) : Option α :=
  match o with
  | .next t => some (f t)
  | .fault _ => none
  | .refused _ => none

/-- The matrix ((1, 2), (3, 4)) at word address 0x1000. -/
def mat2 : Memory :=
  (((Memory.empty.place 0x1000 (.data 1)).place 0x1001 (.data 2)).place 0x1002 (.data 3)).place 0x1003
    (.data 4)

/-- Its entries. -/
def entries (i j : Nat) : Word := BitVec.ofNat 64 (2 * i + j + 1)

/-- The state CONFIG leaves for n = 2 (95_test_vectors.md 2.11), with other buffer contents. -/
def four (row psi : List Residue) : State :=
  { State.reset with
    ndim := 2, mbase := 0x1000, ncfg := 2, mcfg := 0x1000, nlen := 4, logn := 2, kexp := 5
    phase := .fusion, row := row, psi := psi, mat := mat2 }

/-- The same, one row fused. -/
def four1 : State :=
  { four [3, 173167437, 998244352, 825076918] [3, 173167437, 998244352, 825076918] with rowcnt := 1 }

/-- The same, all rows fused. -/
def four2 : State :=
  { four [7, 651909478, 998244352, 346334869] [21, 132407178, 1, 865837185] with
    rowcnt := 2, phase := .fused }

/-- The same, mutated. -/
def four3 : State :=
  { four [] [4084101, 898049078, 1, 100451525] with rowcnt := 2, phase := .mutated }

/-- A computation requested and not yet constructed. -/
def asked : State := { State.reset with ndim := 2, mbase := 0x1000, mat := mat2 }

/-! ### Commands, vectors of 95_test_vectors.md part 2 -/

theorem test_nop_status : after (exec .nop State.reset) statusWord = some 0x10 := by decide +kernel

theorem test_modpow_plain :
    after (exec .modpow { State.reset with opa := 2, opb := 10 }) State.res = some 1024 := by
  decide +kernel

theorem test_modpow_largest_operands :
    after (exec .modpow { State.reset with opa := 0xFFFFFFFFFFFFFFFF, opb := 0xFFFFFFFFFFFFFFFF })
      State.res = some 83526303 := by decide +kernel

theorem test_modinv_two :
    after (exec .modinv { State.reset with opa := 2 }) State.res = some 499122177 := by
  decide +kernel

theorem test_modinv_of_q_faults :
    after (exec .modinv { State.reset with opa := 998244353, res := 7, lcmd := 2 })
      (fun t => (t.res, statusWord t, t.faultcmd)) = some (0, 0x00040018, 2) := by decide +kernel

theorem test_bitrev_psi :
    after (exec (.bitrev .psi) (four [9, 8, 7, 6] [1, 2, 3, 4])) (fun t => (t.row, t.psi)) =
      some ([9, 8, 7, 6], [1, 3, 2, 4]) := by decide +kernel

theorem test_bitrev_unconf_faults :
    after (exec (.bitrev .row) State.reset) statusWord = some 0x00020018 := by decide +kernel

theorem test_nttbf_forward :
    after (exec (.nttbf .row .forward) (four [1, 2, 3, 4] [])) State.row =
      some [10, 86583717, 998244349, 911660634] := by decide +kernel

theorem test_nttbf_inverse :
    after (exec (.nttbf .psi .inverse) (four [] [1, 3, 2, 4])) State.psi =
      some [10, 825076915, 998244351, 173167434] := by decide +kernel

theorem test_ntt_forward :
    after (exec (.ntt .row .forward) (four [1, 2, 3, 4] [])) State.row =
      some [10, 173167434, 998244351, 825076915] := by decide +kernel

theorem test_ntt_inverse :
    after (exec (.ntt .psi .inverse) (four [] [1, 2, 3, 4])) State.psi =
      some [499122179, 455830317, 499122176, 542414035] := by decide +kernel

theorem test_fwht_forward :
    after (exec (.fwht .row .forward) (four [1, 2, 3, 4] [])) State.row =
      some [10, 998244351, 998244349, 0] := by decide +kernel

theorem test_fwht_inverse :
    after (exec (.fwht .psi .inverse) (four [] [1, 2, 3, 4])) State.psi =
      some [499122179, 499122176, 998244352, 0] := by decide +kernel

theorem test_scale :
    after (exec (.scale .row) (four [4, 0, 0, 8] [])) State.row = some [1, 0, 0, 2] := by
  decide +kernel

theorem test_pmul :
    after (exec .pmul (four [998244352, 2, 7, 0] [998244352, 998244352, 0, 5]))
      (fun t => (t.psi, t.row)) = some ([1, 998244351, 0, 0], [998244352, 2, 7, 0]) := by
  decide +kernel

theorem test_config_target :
    after (exec (.config .target) { State.reset with ndim := 3, target := 8 })
      (fun t => (t.nlen, t.logn, t.kexp, statusWord t)) = some (8, 3, 11, 0x112) := by
  decide +kernel

theorem test_config_negative_faults :
    after (exec (.config .square) { State.reset with ndim := 0x80000000, lcmd := 0x20 })
      (fun t => (t.nlen, statusWord t, t.faultcmd)) = some (0, 0x00030018, 0x20) := by
  decide +kernel

theorem test_encrow_second_row :
    after (exec .encrow four1) State.row = some [0, 4, 3, 0] := by decide +kernel

/-- Columns 0 and 2 share bucket 0, and entries are reduced (95_test_vectors.md 2.9). -/
theorem test_encrow_collision :
    after (exec .encrow
      { four [0, 0] [1, 1] with
        ncfg := 3, nlen := 2, logn := 1
        mat := ((Memory.empty.place 0x1000 (.data 998244352)).place 0x1001 (.data 5)).place 0x1002
          (.data 1) }) State.row = some [0, 5] := by decide +kernel

theorem test_fuserow_first :
    after (exec .fuserow (four [0, 0, 0, 0] [1, 1, 1, 1]))
      (fun t => (t.psi, t.rowcnt, t.phase, t.trace)) =
      some ([3, 173167437, 998244352, 825076918], 1, .fusion, [.rowDone 0]) := by decide +kernel

theorem test_fuserow_last :
    after (exec .fuserow four1) (fun t => (t.psi, t.rowcnt, t.phase, t.trace)) =
      some ([21, 132407178, 1, 865837185], 2, .fused, [.rowDone 1, .phaseDone .fusion]) := by
  decide +kernel

theorem test_mutate :
    after (exec .mutate four2) (fun t => (t.psi, t.phase, t.trace)) =
      some ([4084101, 898049078, 1, 100451525], .mutated, [.phaseDone .mutation]) := by
  decide +kernel

theorem test_extract :
    after (exec .extract four3) (fun t => (t.psi, t.result, statusWord t)) =
      some ([1085088, 956963, 949103678, 51182725], 1085088, 0x416) := by decide +kernel

/-- Program P3's result (43_orchestrator.md R210). -/
theorem test_compute :
    after (exec (.compute .square) asked) (fun t => (t.result, t.nlen, t.kexp, statusWord t)) =
      some (1085088, 4, 5, 0x416) := by decide +kernel

/-- n = 0 with a target of 4 (43_orchestrator.md R211). -/
theorem test_compute_dimension_zero :
    after (exec (.compute .target) { State.reset with target := 4 }) (fun t => (t.result, t.psi)) =
      some (1, [1, 0, 0, 0]) := by decide +kernel

theorem test_sreset_clears_the_fault :
    after (exec .sreset { four2 with err := true, errcode := .precond, faultcmd := 0x20, ie := true })
      (fun t => (statusWord t, t.faultcmd, irq t, t.nlen)) = some (0x10, 0, false, 0) := by
  decide +kernel

/-! ### The bus and the platform -/

/-- 20_memory.md R81, 10_state.md R36, R59. -/
theorem test_read_constants :
    [0x00, 0x90, 0x98].map (hostRead State.reset · 64) =
      [some 0x0000000144464D45, some 0x3B800001, some 3] := by decide

/-- The first line of 95_test_vectors.md 1.1, `WR NDIM, 4`. -/
theorem test_write_ndim :
    after (step { State.reset with inputs := [.write 0x38 64 4] }) (fun t => (t.ndim, t.replies)) =
      some (4, [.ok]) := by decide +kernel

/-- A buffer write of Q is refused, not reduced (20_memory.md R82). -/
theorem test_write_q_is_refused :
    after (step { four [1, 2, 3, 4] [] with inputs := [.write 0x20008 64 998244353] })
      (fun t => (t.row, t.replies)) = some ([1, 2, 3, 4], [.error]) := by decide +kernel

/-- An access above the window is not the block's (20_memory.md R81, log 8). -/
theorem test_outside_the_window_faults :
    step { State.reset with inputs := [.read 0x60000 64] } = .fault (.outsideWindow 0x60000) := rfl

/-- The word the host places for the next step runs as the first command after reset. -/
theorem test_first_command_after_reset :
    after (step (State.reset.withFetchWord 32 0x20)) State.phase = some .fused := by decide +kernel

/-- The byte view of a matrix word is little-endian (20_memory.md R76). -/
theorem test_matrix_bytes_little_endian :
    (Memory.empty.place 1 (.data 0x0102030405060708)).cells.head? = some (8, 0x08) ∧
    (Memory.empty.place 1 (.data 0x0102030405060708)).answer 1 = .data 0x0102030405060708 := by
  decide

/-- The progress port's fields (60_exceptions.md R262). -/
theorem test_event_fields :
    ((Event.rowDone 5).kind, (Event.rowDone 5).index) = (1, 5) ∧
    ((Event.phaseDone .extraction).kind, (Event.phaseDone .extraction).index) = (2, 3) := by decide

/-- Script lines (30_encoding.md R113, 95_test_vectors.md 1.1). -/
theorem test_script_lines :
    ScriptLine.moves (.wr .ndim 4) = [.write 0x38 64 4] ∧
    ScriptLine.moves (.rdElem .psi 2) = [.read 0x40010 64] ∧
    (ScriptLine.moves (.cmd (.config .square))).head? = some (.write 0x08 64 0x20) := by decide

/-! ### Values of construction, 95_test_vectors.md 1.1 and 2.8 -/

theorem test_sizes :
    [0, 1, 2, 3, 5, 9, 4097, 16384, 16385].map sizeN = [1, 1, 2, 4, 8, 16, 8192, 16384, 16384] := by
  decide

theorem test_exponents :
    kExp 4 4 = 20 ∧ kExp 2 2 = 5 ∧ kExp 129 14 = 2168 ∧ kExp 2147483647 14 = 36077725270 := by decide

/-- Idx for n = 3, N = 16 (95_test_vectors.md 1.9). -/
theorem test_buckets :
    (List.range 3).map (fun j => bucket 1 j 3 16) = [13, 12, 11] := by decide

/-! ### Witnesses for the hypotheses of the statements -/

/-- The state of `four` with a command in flight. -/
def inFlight (w : CmdWord) (ins : List Move) : State :=
  { four [1, 2, 3, 4] [1, 1, 1, 1] with lcmd := w, busy := true, inputs := ins }

/-- A state after a fault, in phase UNCONF. -/
def faulted : State := { State.reset with err := true, errcode := .seq, faultcmd := 0x10, cdone := true }

/-- The same with SRESET in flight. -/
def recovering : State := { faulted with cdone := false, busy := true, lcmd := 0x3F }

theorem witness_StepRunsTheDecodedCommand :
    ((inFlight 0x22 []).busy = true ∧ blockTurn (inFlight 0x22 []) = some (inFlight 0x22 []) ∧
      decode (inFlight 0x22 []).lcmd = some .fuserow) ∧
    blockTurn (inFlight 0x22 [.wait]) = some (inFlight 0x22 []) := by decide +kernel

theorem witness_IllegalWordCompletesWithFault :
    (inFlight 0x13F []).busy = true ∧ blockTurn (inFlight 0x13F []) = some (inFlight 0x13F []) ∧
      decode (inFlight 0x13F []).lcmd = none := by decide +kernel

theorem witness_IssuedCommandCompletes :
    let s : State := { State.reset with busy := true, lcmd := 0x25 }
    s.busy = true ∧ blockTurn s = some s ∧ matAnswers s :=
  ⟨rfl, rfl, fun a => by rw [matRead_stable _ a rfl]; exact fun h => by simp [State.reset] at h⟩

theorem witness_UnansweredMatrixReadKeepsBusy_row :
    let s : State := { four [] [] with mat := mat2.place 0x1001 .silent }
    s.phase = .fusion ∧ 1 < s.ncfg.toNat ∧
    rowReads s s.mcfg s.ncfg.toNat s.rowcnt.toNat 1 (entries 0) ∧
    matRead s (matAddr s.mcfg s.ncfg.toNat s.rowcnt.toNat 1) = .silent := by
  unfold rowReads; decide +kernel

theorem witness_UnansweredMatrixReadKeepsBusy_compute :
    let s : State := { asked with mat := mat2.place 0x1003 .silent }
    0 ≤ dimension s ∧ 1 < (dimension s).toNat ∧
    rootOk s.root (sizeN (sizeSource .square (dimension s).toNat s)) = true ∧
    (∀ i < 1, rowReads s s.mbase (dimension s).toNat i (dimension s).toNat (entries i)) ∧
    rowReads s s.mbase (dimension s).toNat 1 1 (entries 1) ∧
    matRead s (matAddr s.mbase (dimension s).toNat 1 1) = .silent := by
  unfold rowReads; decide +kernel

theorem witness_PhaseTable :
    State.reset.phase ∉ requiredPhases (.bitrev .row) ∧
    (four [] []).phase ∈ requiredPhases .encrow ∧
    ∃ t, exec .modpow faulted = .next t ∧ t.errcode = .seq :=
  ⟨by decide, by decide, _, rfl, rfl⟩

theorem witness_FaultsAndTheirRaisers :
    (∃ t, exec .nop State.reset = .next t) ∧
    (∃ t, exec .sreset faulted = .next t ∧ t.err = false) ∧
    ∃ t, exec .mutate State.reset = .next t ∧ t.errcode = .seq :=
  ⟨⟨_, rfl⟩, ⟨_, rfl, rfl⟩, _, rfl, rfl⟩

theorem witness_FaultIsSticky_recovering :
    StateInv recovering ∧ recovering.err = true ∧ ∃ t, step recovering = .next t ∧ t.err = false :=
  ⟨by constructor <;> decide +kernel, rfl, _, rfl, rfl⟩

theorem witness_FaultIsSticky_rst :
    let s : State := { faulted with inputs := [.rst] }
    StateInv s ∧ s.err = true ∧ ∃ t, step s = .next t ∧ t.err = false :=
  ⟨by constructor <;> decide +kernel, rfl, _, rfl, rfl⟩

theorem witness_FaultIsSticky_idle :
    StateInv faulted ∧ faulted.err = true ∧ ∃ t, step faulted = .next t ∧ t.err = true :=
  ⟨by constructor <;> decide +kernel, rfl, _, rfl, rfl⟩

theorem witness_PhaseTransitions :
    (∃ t, exec .mutate four2 = .next t ∧ t.phase = .mutated) ∧
    (∃ t, exec .extract four3 = .next t ∧ t.phase = .done) ∧
    ∃ t, exec .sreset four3 = .next t ∧ t.phase = .unconf :=
  ⟨⟨_, rfl, rfl⟩, ⟨_, rfl, rfl⟩, _, rfl, rfl⟩

theorem witness_RegistersHaveTheirWriters :
    Instr.modinv ≠ .sreset ∧ ∃ t, exec .modinv { State.reset with opa := 2 } = .next t :=
  ⟨by decide, exec_next _ _⟩

theorem witness_BinaryExponentiationIsPower : (1 : Nat) ≤ 1 ∧ 998244353 % Q = 0 := by decide

theorem witness_FermatInverse : (1 : Nat) ≤ 998244352 ∧ 998244352 < Q ∧ 998244354 % Q ≠ 0 := by
  decide

theorem witness_ModinvCompletesOrFaults :
    ({ State.reset with opa := 0xFFFFFFFFFFFFFFFF } : State).opa.toNat % Q ≠ 0 ∧
    ({ State.reset with opa := 1996488706 } : State).opa.toNat % Q = 0 := by decide

theorem witness_BitReversalIndex : (0 < 2 ^ 0) ∧ (7 < 2 ^ 3 ∧ 2 < 3) := by decide

theorem witness_IncrementalBitFlip : (0 < 1 ∧ 1 < 2 ^ 1) ∧ (0 < 7 ∧ 7 < 2 ^ 3) := by decide

/-- For BITREV, NTTBF, SCALE, NTT, FWHT and PMUL, with N = 4, and with N = 1 for the boundary. -/
theorem witness_transforms :
    let s := four [1, 2, 3, 4] [4, 3, 2, 1]
    let u : State := { State.reset with phase := .fused, nlen := 1, row := [5], psi := [1] }
    (s.phase ≠ .unconf ∧ s.nlen.toNat = 2 ^ s.logn.toNat ∧ (getBuf .row s).length = s.nlen.toNat ∧
      (getBuf .psi s).length = s.nlen.toNat) ∧
    (u.phase ≠ .unconf ∧ u.nlen.toNat = 2 ^ u.logn.toNat ∧ (getBuf .row u).length = u.nlen.toNat ∧
      (getBuf .psi u).length = u.nlen.toNat) := by decide

theorem witness_NttStageButterflies :
    1 < 2 ∧ ([1, 2, 3, 4] : List Residue).length = 2 ^ 2 ∧ 0 < 2 ^ (2 - (1 + 1)) ∧ 1 < 2 ^ 1 := by
  decide

/-- For the closed form, the round trip and the convolution, of the NTT and of the FWHT. -/
theorem witness_sequences :
    (rootOk 3 (2 ^ 2) = true ∧ ([1, 2, 3, 4] : List Residue).length = 2 ^ 2 ∧ 3 < 2 ^ 2) ∧
    (rootOk 0 (2 ^ 0) = true ∧ ([7] : List Residue).length = 2 ^ 0 ∧ 0 < 2 ^ 0) := by decide +kernel

theorem witness_SizingRule : max 1 (min 0 16384) ≤ 2 ^ 0 ∧ max 1 (min 16385 16384) ≤ 2 ^ 14 := by
  decide

theorem witness_ConfigCompletes :
    let big : State := { State.reset with ndim := 0x7FFFFFFF }
    (0 ≤ dimension asked ∧
      rootOk asked.root (sizeN (sizeSource .target (dimension asked).toNat asked)) = true) ∧
    (0 ≤ dimension big ∧
      rootOk big.root (sizeN (sizeSource .square (dimension big).toNat big)) = true) := by
  decide +kernel

theorem witness_ConstructionPreconditionFaults :
    let bad : State := { asked with root := 1 }
    dimension { State.reset with ndim := 0x80000000 } < 0 ∧
    rootOk bad.root (sizeN (sizeSource .square (dimension bad).toNat bad)) = false := by
  decide +kernel

/-- For ENCROW and FUSEROW, the first and the last row. -/
theorem witness_rows :
    let s := four [] [1, 1, 1, 1]
    (s.phase = .fusion ∧ s.nlen.toNat = 2 ^ s.logn.toNat ∧ s.rowcnt.toNat < s.ncfg.toNat ∧
      rowReads s s.mcfg s.ncfg.toNat s.rowcnt.toNat s.ncfg.toNat (entries s.rowcnt.toNat)) ∧
    (four1.phase = .fusion ∧ four1.nlen.toNat = 2 ^ four1.logn.toNat ∧
      four1.rowcnt.toNat < four1.ncfg.toNat ∧
      rowReads four1 four1.mcfg four1.ncfg.toNat four1.rowcnt.toNat four1.ncfg.toNat
        (entries four1.rowcnt.toNat)) := by unfold rowReads; decide +kernel

theorem witness_MatrixErrorFaults :
    let s : State := { four [] [] with mat := mat2.place 0x1001 .error }
    s.phase = .fusion ∧ 1 < s.ncfg.toNat ∧
    rowReads s s.mcfg s.ncfg.toNat s.rowcnt.toNat 1 (entries 0) ∧
    matRead s (matAddr s.mcfg s.ncfg.toNat s.rowcnt.toNat 1) = .error := by
  unfold rowReads; decide +kernel

theorem witness_MutateCompletes : four2.phase = .fused := rfl

theorem witness_ExtractCompletes :
    four3.phase = .mutated ∧ four3.nlen.toNat = 2 ^ four3.logn.toNat ∧
    four3.psi.length = four3.nlen.toNat := by decide

/-- For COMPUTE as the pipeline and as a sequence of commands, with n = 2 and with n = 0. -/
theorem witness_compute :
    let none0 : State := { State.reset with target := 4 }
    (asked.matOld = [] ∧ 0 ≤ dimension asked ∧
      rootOk asked.root (sizeN (sizeSource .square (dimension asked).toNat asked)) = true ∧
      ∀ i < (dimension asked).toNat,
        rowReads asked asked.mbase (dimension asked).toNat i (dimension asked).toNat (entries i)) ∧
    (none0.matOld = [] ∧ 0 ≤ dimension none0 ∧
      rootOk none0.root (sizeN (sizeSource .target (dimension none0).toNat none0)) = true ∧
      ∀ i < (dimension none0).toNat,
        rowReads none0 none0.mbase (dimension none0).toNat i (dimension none0).toNat (entries i)) := by
  unfold rowReads; decide +kernel

theorem witness_ComputeMatrixErrorFaults :
    let s : State := { asked with mat := mat2.place 0x1003 .error }
    0 ≤ dimension s ∧ 1 < (dimension s).toNat ∧
    rootOk s.root (sizeN (sizeSource .square (dimension s).toNat s)) = true ∧
    (∀ i < 1, rowReads s s.mbase (dimension s).toNat i (dimension s).toNat (entries i)) ∧
    rowReads s s.mbase (dimension s).toNat 1 1 (entries 1) ∧
    matRead s (matAddr s.mbase (dimension s).toNat 1 1) = .error := by
  unfold rowReads; decide +kernel

theorem witness_DegenerateComputations :
    let one : State := { State.reset with ndim := 1, mat := Memory.empty.place 0 (.data 5) }
    let zeros : State := { State.reset with
      ndim := 2
      mat := (((Memory.empty.place 0 (.data 0)).place 1 (.data 0)).place 2 (.data 0)).place 3
        (.data 0) }
    (dimension State.reset = 0 ∧
      rootOk State.reset.root (sizeN (sizeSource .square 0 State.reset)) = true) ∧
    (dimension one = 1 ∧ matRead one one.mbase = .data 5) ∧
    (2 ≤ dimension zeros ∧
      rootOk zeros.root (sizeN (sizeSource .square (dimension zeros).toNat zeros)) = true ∧
      ∀ i < (dimension zeros).toNat,
        rowReads zeros zeros.mbase (dimension zeros).toNat i (dimension zeros).toNat fun _ => 0) ∧
    129 ≤ dimension { State.reset with ndim := 129 } := by unfold rowReads; decide +kernel

theorem witness_ComputeIsDeterministic :
    let s : State := { four3 with opa := 9, trace := [.rowDone 7] }
    s.ndim = asked.ndim ∧ s.target = asked.target ∧ s.root = asked.root ∧ 0 ≤ dimension asked ∧
    rootOk asked.root (sizeN (sizeSource .square (dimension asked).toNat asked)) = true ∧
    (∀ i < (dimension asked).toNat,
      rowReads asked asked.mbase (dimension asked).toNat i (dimension asked).toNat (entries i)) ∧
    (∀ i < (dimension asked).toNat,
      rowReads s s.mbase (dimension asked).toNat i (dimension asked).toNat (entries i)) := by
  unfold rowReads; decide +kernel

theorem witness_IndexCollisions :
    (2 * 2 ≤ 2 ^ 2 ∧ 1 < 2 ∧ 0 < 2) ∧ bucket 1 1 2 (2 ^ 2) = bucket 1 1 2 (2 ^ 2) ∧
    bucket 0 0 3 (2 ^ 1) = bucket 0 2 3 (2 ^ 1) := by decide

theorem witness_SresetAndRst :
    (inFlight 0x25 [.rst, .wait]).inputs = .rst :: [.wait] ∧ (inFlight 0x25 [.rst]).busy = true :=
  ⟨rfl, rfl⟩

theorem witness_AddressMapOfTheWindow :
    (0xA0 ≤ 0xA0 ∧ 0xA0 < 0x20000) ∧ (0xA0 ≤ 0x1FFF8 ∧ 0x1FFF8 < 0x20000) ∧ 16383 < 16384 := by
  decide

/-- For every offset and every data: a state whose next move is that access, with BUSY = 0. -/
theorem witness_HostWriteTable (off : Nat) (v : Word) :
    let s : State := { four [1, 2, 3, 4] [] with inputs := [.write off 64 v] }
    s.busy = false ∧ s.inputs = .write off 64 v :: [] := ⟨rfl, rfl⟩

theorem witness_HostReadTable (off : Nat) :
    let s : State := { four [1, 2, 3, 4] [] with inputs := [.read off 64] }
    s.busy = false ∧ s.inputs = .read off 64 :: [] := ⟨rfl, rfl⟩

/-- The last reachable element and the first unreachable one (20_memory.md R82). -/
theorem witness_buffer_windows :
    (hostWrite (four [1, 2, 3, 4] []) 0x20018 64 998244352).isSome = true ∧
    (hostWrite (four [1, 2, 3, 4] []) 0x20020 64 5).isSome = false ∧
    hostRead (four [] [1, 2, 3, 4]) 0x40018 64 = some 4 ∧
    hostRead (four [] [1, 2, 3, 4]) 0x40020 64 = none ∧
    hostRead State.reset 0x20000 64 = none := by decide +kernel

theorem witness_HeldAndRefusedAccesses :
    ((inFlight 0x22 [.read 0x10 64]).busy = true ∧
      (inFlight 0x22 [.read 0x10 64]).inputs = .read 0x10 64 :: []) ∧
    ((inFlight 0x22 [.read 0x5FFF8 64]).inputs = .read 0x5FFF8 64 :: [] ∧
      ¬(0x5FFF8 = 0x10 ∧ 64 = 64)) ∧
    (inFlight 0x22 [.write 0x10 64 0x10]).inputs = .write 0x10 64 0x10 :: [] ∧
    (let s : State := { State.reset with inputs := [.read 0x10 32] }
     s.busy = false ∧ s.inputs = .read 0x10 32 :: [] ∧ 32 ≠ 64) := by decide +kernel

theorem witness_ErrorLocksOutWrites :
    faulted.err = true ∧ (hostWrite faulted 0x08 64 0x3F).isSome = true ∧
    (hostWrite faulted 0x20 64 0).isSome = false := by decide +kernel

theorem witness_IssueLatchesTheCommand :
    (let s : State := { State.reset with inputs := [.write 0x08 64 0xFFFFFFFF] }
     s.inputs = .write 0x08 64 ((0xFFFFFFFF : CmdWord).setWidth 64) :: [] ∧ s.busy = false ∧
      s.err = false) ∧
    (let s : State := { faulted with inputs := [.write 0x08 64 0x3F] }
     s.inputs = .write 0x08 64 ((0x3F : CmdWord).setWidth 64) :: [] ∧ s.busy = false ∧
      s.err = true) ∧
    (inFlight 0x22 [.write 0x08 64 0]).busy = true := by decide +kernel

theorem witness_OnlyThePlatformChangesMat :
    (∃ t, step State.reset = .next t) ∧
    (∃ t, step (inFlight 0x22 [.place 0x1000 (.data 9)]) = .next t ∧ t.matOld = [mat2] ∧
      t.mat.answer 0x1000 = .data 9) :=
  ⟨⟨_, rfl⟩, _, rfl, by decide +kernel, by decide +kernel⟩

/-- A good state with a computation under way, a command in flight and MAT changed meanwhile. -/
theorem witness_StepKeepsTheInvariant :
    let s : State := { inFlight 0x22 [.wait] with mat := mat2.place 0x1000 (.data 9), matOld := [mat2] }
    StateInv s ∧ ∃ t, step s = .next t := by
  refine ⟨?_, completion_next
    { inFlight 0x22 [] with mat := mat2.place 0x1000 (.data 9), matOld := [mat2] }⟩
  constructor <;> decide +kernel

end Sys2Proof.Tests
end

/-! Proofs for 00_scope.md: `do CMD` inside COMPUTE is the same as issuing the commands one by one
(R23, 43_orchestrator.md R210). A command issued after another one starts from the `completed` state,
`do CMD` from the state itself; the key fact is that FUSEROW, MUTATE and EXTRACT cannot tell these two
apart where MAT is stable. -/

namespace Sys2Proof.Machine

/-! ### Reading a matrix row -/

/-- The row reads of two states agree where MAT, its earlier contents and the counter do. -/
theorem rowReads_congr {s t : State} {base : Word} {n i k : Nat} {M : Nat → Word}
    (hmat : t.mat = s.mat) (hold : t.matOld = s.matOld) (hfree : t.freeCount = s.freeCount)
    (h : rowReads s base n i k M) : rowReads t base n i k M := fun j hj =>
  (matRead_congr s t _ hmat hold hfree).trans (h j hj)

/-- A row all of whose entries are answered with data is read and encoded (43_orchestrator.md R197). -/
theorem readRow_of_rowReads {s : State} {i : Nat} {M : Nat → Word}
    (h : rowReads s s.mcfg s.ncfg.toNat i s.ncfg.toNat M) :
    readRow s i = .row (encodeRow i s.ncfg.toNat s.nlen.toNat M) := by
  unfold readRow
  rw [encodeLoop_data _ _ M _ _ _ fun k hk => by simpa using h k hk]
  simp [encodeRow]

/-- ENCROW, where its row is read as data, is done with the encoded row in ROW. -/
theorem encrowBody_of_rowReads {s : State} {M : Nat → Word}
    (h : rowReads s s.mcfg s.ncfg.toNat s.rowcnt.toNat s.ncfg.toNat M) :
    encrowBody s =
      .done (encoded s (encodeRow s.rowcnt.toNat s.ncfg.toNat s.nlen.toNat M)) := by
  simp only [encrowBody, readRow_of_rowReads h]
  rfl

/-- FUSEROW, where its row is read as data, is done: it has written ROW, PSI and the record of reads,
and counted the row. -/
theorem fuserowBody_of_rowReads {s : State} {M : Nat → Word}
    (h : rowReads s s.mcfg s.ncfg.toNat s.rowcnt.toNat s.ncfg.toNat M) :
    ∃ row psi, fuserowBody s = .done (advanceRow
      { s with
        row := row
        psi := psi
        matReads := s.matReads ++ rowAddrs s.mcfg s.ncfg.toNat s.rowcnt.toNat s.ncfg.toNat }) := by
  obtain ⟨x, hx⟩ := nttBody_done .row .forward
    (encoded s (encodeRow s.rowcnt.toNat s.ncfg.toNat s.nlen.toNat M))
  refine ⟨x, mulSeq s.psi x, ?_⟩
  simp only [fuserowBody, encrowBody_of_rowReads h, andThen_done, hx]
  rfl

/-! ### What a command does after the completion of another -/

@[simp] theorem completed_completed (s : State) : completed (completed s) = completed s := rfl

/-- The command does from a completed state what it does from the state itself, where MAT is stable:
no command reads BUSY or CDONE, and there are no earlier contents of MAT to lose. -/
def IgnoresCompletion (body : State → Body) : Prop :=
  ∀ s u : State, s.matOld = [] → body s = .done u → body (completed s) = .done (completed u)

/-- A row read after a completion is the row read before it. -/
theorem readRow_completed (s : State) (i : Nat) (h : s.matOld = []) :
    readRow (completed s) i = readRow s i := by
  have hread : matRead (completed s) = matRead s :=
    funext fun a => matRead_congr s (completed s) a rfl h.symm rfl
  unfold readRow
  rw [hread]
  rfl

/-- Whether the row was the last is decided by ROWCNT and NCFG, which a completion leaves alone. -/
theorem advanceRow_completed (s : State) :
    advanceRow (completed s) = completed (advanceRow s) :=
  (apply_ite completed (s.rowcnt + 1 = s.ncfg) (enterFused (countRow s)) (countRow s)).symm

theorem encrowBody_ignoresCompletion : IgnoresCompletion encrowBody := by
  intro s u hold hdone
  have hrow := readRow_completed s s.rowcnt.toNat hold
  rcases encrowBody_cases s with ⟨buf, _, hbuf, henc⟩ | ⟨k, _, _, _, henc⟩ | ⟨_, henc⟩
  · obtain rfl : encoded s buf = u := Body.done.inj (henc.symm.trans hdone)
    have hbuf' : readRow (completed s) (completed s).rowcnt.toNat = .row buf := hrow.trans hbuf
    simp only [encrowBody, hbuf']
    rfl
  · exact absurd (henc.symm.trans hdone) (by simp)
  · exact absurd (henc.symm.trans hdone) (by simp)

/-- Only the ENCROW in FUSEROW reads MAT; its transform, its product and its count compute with fields
a completion leaves alone. -/
theorem fuserowBody_ignoresCompletion : IgnoresCompletion fuserowBody := by
  intro s u hold hdone
  obtain ⟨c, hprod, hcount⟩ := andThen_eq_done hdone
  obtain ⟨b, hntt, hpmul⟩ := andThen_eq_done hprod
  obtain ⟨a, henc, hntt⟩ := andThen_eq_done hntt
  have hntt' : nttBody .row .forward (completed a) = .done (completed b) := by
    rw [← Body.done.inj hntt]; rfl
  have hpmul' : pmulBody (completed b) = .done (completed c) := by
    rw [← Body.done.inj hpmul]; rfl
  rw [fuserowBody, encrowBody_ignoresCompletion s a hold henc, andThen_done, hntt', andThen_done,
    hpmul', andThen_done, advanceRow_completed, Body.done.inj hcount]

theorem mutateBody_ignoresCompletion : IgnoresCompletion mutateBody := by
  intro s u _ hdone
  rw [← Body.done.inj hdone]
  rfl

theorem extractBody_ignoresCompletion : IgnoresCompletion extractBody := by
  intro s u _ hdone
  rw [← Body.done.inj hdone]
  rfl

/-! ### A sequence of commands -/

/-- A command that is done hands the rest of the sequence its completed state. -/
theorem execAll_cons_done (i : Instr) {s u : State} (rest : List Instr)
    (hp : phaseAllowed i s.phase = true) (hdone : bodyOf i s = .done u) :
    execAll (i :: rest) s = execAll rest (completed u) := by
  have hexec : exec i s = .next (completed u) := (exec_eq i s).trans (runCommand_done hp hdone)
  rw [execAll, hexec]

/-- In a sequence, a command that ignores completion leaves what `do CMD` would. -/
theorem execAll_cons_completed (i : Instr) {s u : State} (rest : List Instr)
    (hi : IgnoresCompletion (bodyOf i)) (hold : s.matOld = [])
    (hp : phaseAllowed i s.phase = true) (hdone : bodyOf i s = .done u) :
    execAll (i :: rest) (completed s) = execAll rest (completed u) :=
  execAll_cons_done i rest (s := completed s) (u := completed u) hp (hi s u hold hdone)

/-! ### The fusion phase -/

/-- A computation on its way through the fusion, over a stable matrix that reads as `M`: the rows from
ROWCNT on are left, and where none is left the phase is FUSED (43_orchestrator.md R194, R201). -/
structure Fusing (M : Nat → Nat → Word) (s : State) : Prop where
  stable : s.matOld = []
  phase : s.phase = if s.rowcnt = s.ncfg then .fused else .fusion
  reads : ∀ i < s.ncfg.toNat, rowReads s s.mcfg s.ncfg.toNat i s.ncfg.toNat (M i)

/-- NCFG holds the dimension a construction was given, if it fits. -/
theorem construct_ncfg_toNat {n : Nat} (m : Nat) (s : State) (hn : n < 2 ^ 31) :
    (construct n m s).ncfg.toNat = n := by
  rw [construct_ncfg, BitVec.toNat_ofNat, Nat.mod_eq_of_lt hn]

/-- CONFIG of a dimension the register holds starts the fusion at row 0. -/
theorem construct_fusing {M : Nat → Nat → Word} {n : Nat} (m : Nat) {s : State} (hn : n < 2 ^ 31)
    (hold : s.matOld = []) (hreads : ∀ i < n, rowReads s s.mbase n i n (M i)) :
    Fusing M (construct n m s) where
  stable := by simpa using hold
  phase := by
    have hempty : (construct n m s).rowcnt = (construct n m s).ncfg ↔ n = 0 := by
      rw [← BitVec.toNat_inj, construct_ncfg_toNat m s hn, construct_rowcnt]
      exact eq_comm
    simp only [hempty, construct_phase]
  reads := by
    rw [construct_ncfg_toNat m s hn, construct_mcfg]
    exact fun i hi => rowReads_congr (by simp) (by simp) (by simp) (hreads i hi)

theorem Fusing.phase_of_lt {M : Nat → Nat → Word} {s : State} (h : Fusing M s)
    (hlt : s.rowcnt.toNat < s.ncfg.toNat) : s.phase = .fusion := by
  rw [h.phase, if_neg fun heq => by rw [heq] at hlt; exact lt_irrefl _ hlt]

/-- While a row is left, FUSEROW is done, counts one row and keeps the computation going. -/
theorem Fusing.fuserow {M : Nat → Nat → Word} {s : State} (h : Fusing M s)
    (hlt : s.rowcnt.toNat < s.ncfg.toNat) :
    ∃ u, fuserowBody s = .done u ∧ Fusing M u ∧ u.ncfg = s.ncfg ∧
      u.rowcnt.toNat = s.rowcnt.toNat + 1 := by
  obtain ⟨row, psi, hdone⟩ := fuserowBody_of_rowReads (h.reads _ hlt)
  have hphase := h.phase_of_lt hlt
  refine ⟨_, hdone, ⟨by simpa using h.stable, by simp [hphase], ?_⟩, by simp, ?_⟩
  · simp only [advanceRow_ncfg, advanceRow_mcfg]
    exact fun i hi => rowReads_congr (by simp) (by simp) (by simp) (h.reads i hi)
  · have hbound := s.ncfg.isLt
    simp only [advanceRow_rowcnt]
    bv_omega

/-- The loop of COMPUTE over the rows left ends in phase FUSED, and issuing its FUSEROWs one by one
leaves the same state. -/
theorem Fusing.execAll_fuserows {M : Nat → Nat → Word} (rest : List Instr) :
    ∀ (k : Nat) (s : State), Fusing M s → s.rowcnt.toNat + k = s.ncfg.toNat →
      ∃ u, fuseRows k s = .done u ∧ u.phase = .fused ∧ u.matOld = [] ∧
        execAll (List.replicate k .fuserow ++ rest) (completed s) = execAll rest (completed u) := by
  intro k
  induction k with
  | zero =>
    intro s h hk
    exact ⟨s, rfl, by rw [h.phase, if_pos (BitVec.eq_of_toNat_eq hk)], h.stable, rfl⟩
  | succ k ih =>
    intro s h hk
    obtain ⟨t, hdone, ht, hncfg, hrowcnt⟩ := h.fuserow (by omega)
    obtain ⟨u, hrows, hphase, hold, hexec⟩ := ih t ht (by rw [hncfg, hrowcnt]; omega)
    have hp : phaseAllowed .fuserow s.phase = true := by
      rw [h.phase_of_lt (by omega)]; rfl
    refine ⟨u, by rw [fuseRows, hdone, andThen_done, hrows], hphase, hold, ?_⟩
    rw [List.replicate_succ, List.cons_append,
      execAll_cons_completed .fuserow _ fuserowBody_ignoresCompletion h.stable hp hdone, hexec]

/-! ### COMPUTE -/

/-- A dimension that is not negative fits NCFG (10_state.md R40, R43). -/
theorem dimension_toNat_lt (s : State) : (dimension s).toNat < 2 ^ 31 := by
  have h : dimension s < 2 ^ 31 := BitVec.toInt_lt (x := s.ndim)
  omega

/-- Settles O44: the sequence is followed command by command, each from the completed state of the one
before; the rows are the loop of `Fusing.execAll_fuserows`. -/
theorem computeIsTheCommandSequence : Obligations.ComputeIsTheCommandSequence := by
  intro s z M hold hdim hroot hreads
  have hconfig : configBody z s = .done (construct (dimension s).toNat
      (sizeLog (sizeSource z (dimension s).toNat s)) s) := by
    rcases configBody_cases z s with ⟨hneg | hbad, _⟩ | ⟨_, _, hdone⟩
    · omega
    · exact absurd (hbad.symm.trans hroot) (by decide)
    · exact hdone
  generalize hc : construct _ _ s = c at hconfig
  have hn := dimension_toNat_lt s
  have hfusing : Fusing M c := hc ▸ construct_fusing _ hn hold hreads
  have hncfg : c.ncfg.toNat = (dimension s).toNat := hc ▸ construct_ncfg_toNat _ s hn
  have hrowcnt : c.rowcnt.toNat = 0 := by simp [← hc]
  obtain ⟨f, hrows, hfused, hfold, hexecRows⟩ :=
    hfusing.execAll_fuserows [.mutate, .extract] (dimension s).toNat c (by omega)
  obtain ⟨v, hmutate, hmutated, hvold⟩ :
      ∃ v, mutateBody f = .done v ∧ v.phase = .mutated ∧ v.matOld = [] := ⟨_, rfl, rfl, hfold⟩
  obtain ⟨w, hextract⟩ : ∃ w, extractBody v = .done w := ⟨_, rfl⟩
  have hcompute : computeBody z s = .done w := by
    have hrest : fuseRest c = .done f := by rw [fuseRest, hncfg, hrowcnt, Nat.sub_zero, hrows]
    rw [computeBody, hconfig, andThen_done, hrest, andThen_done, hmutate, andThen_done, hextract]
  calc exec (.compute z) s = .next (completed w) :=
        (exec_eq _ s).trans (runCommand_done rfl hcompute)
    _ = execAll [.extract] (completed v) :=
        (execAll_cons_completed .extract [] extractBody_ignoresCompletion hvold (by rw [hmutated]; rfl)
          hextract).symm
    _ = execAll [.mutate, .extract] (completed f) :=
        (execAll_cons_completed .mutate _ mutateBody_ignoresCompletion hfold (by rw [hfused]; rfl)
          hmutate).symm
    _ = execAll (List.replicate (dimension s).toNat .fuserow ++ [.mutate, .extract]) (completed c) :=
        hexecRows.symm
    _ = execAll (.config z ::
          (List.replicate (dimension s).toNat .fuserow ++ [.mutate, .extract])) s :=
        (execAll_cons_done (.config z) _ rfl hconfig).symm

end Sys2Proof.Machine

/-! Proofs for 10_state.md: the invariants of R63, who writes which register, PHASE, STATUS, what the
host reads and writes, and reset. A command is followed through its pseudocode by `Body.Post`: each part
is shown once to end in states of a given kind, and `exec` takes that to its completion. -/

namespace Sys2Proof.Machine

/-! ### The ends of a command's pseudocode -/

/-- Where the pseudocode is done its state meets `fin`, and where it raises a fault, code and state meet
`raised`. A stalled command has no end (44_system.md R232). -/
def Body.Post (fin : State → Prop) (raised : ErrCode → State → Prop) : Body → Prop
  | .done u => fin u
  | .raise c u => raised c u
  | .stall => True

/-- `do CMD`, then the rest, which starts from any end the command can have. -/
theorem Body.Post.andThen {fin fin' : State → Prop} {raised : ErrCode → State → Prop} {b : Body}
    {k : State → Body} (hb : b.Post fin raised) (hk : ∀ u, fin u → (k u).Post fin' raised) :
    (b.andThen k).Post fin' raised := by
  cases b with
  | done u => exact hk u hb
  | raise c u => exact hb
  | stall => trivial

theorem Body.Post.imp {fin fin' : State → Prop} {raised raised' : ErrCode → State → Prop} {b : Body}
    (hb : b.Post fin raised) (h : ∀ u, fin u → fin' u) (h' : ∀ c u, raised c u → raised' c u) :
    b.Post fin' raised' := by
  cases b with
  | done u => exact h u hb
  | raise c u => exact h' c u hb
  | stall => trivial

theorem Body.Post.and_fin {fin fin' : State → Prop} {raised raised' : ErrCode → State → Prop} {b : Body}
    (hb : b.Post fin raised) (hb' : b.Post fin' raised') :
    b.Post (fun u => fin u ∧ fin' u) raised := by
  cases b with
  | done u => exact ⟨hb, hb'⟩
  | raise c u => exact hb
  | stall => trivial

/-- What the ends of its pseudocode and the SEQ fault have after the completion, `exec` has; a stalled
command leaves the state it found (44_system.md R231, R232). -/
theorem exec_post {fin P : State → Prop} {raised : ErrCode → State → Prop} {i : Instr} {s t : State}
    (hbody : phaseAllowed i s.phase = true → (bodyOf i s).Post fin raised)
    (hstay : P s) (hseq : P (completedFault .seq s)) (hfin : ∀ u, fin u → P (completed u))
    (hraised : ∀ c u, raised c u → P (completedFault c u)) (h : exec i s = .next t) : P t := by
  rw [exec_eq] at h
  rcases runCommand_cases i (bodyOf i) s with
    ⟨_, hrun⟩ | ⟨hp, ⟨u, hu, hrun⟩ | ⟨c, u, hu, hrun⟩ | ⟨_, hrun⟩⟩ <;>
    obtain rfl := Host.Outcome.next.inj (hrun.symm.trans h)
  · exact hseq
  · have hpost := hbody hp
    rw [hu] at hpost
    exact hfin u hpost
  · have hpost := hbody hp
    rw [hu] at hpost
    exact hraised c u hpost
  · exact hstay

/-! ### The ends of each command's parts -/

section
variable {fin : State → Prop} {raised : ErrCode → State → Prop}

theorem nttBody_post (b : Buf) (d : Dir) (s : State)
    (h : ∀ x, fin (setBuf b x s)) : (nttBody b d s).Post fin raised := by
  obtain ⟨x, hx⟩ := nttBody_done b d s
  rw [hx]
  exact h x

theorem fwhtBody_post (b : Buf) (d : Dir) (s : State)
    (h : ∀ x, fin (setBuf b x s)) : (fwhtBody b d s).Post fin raised := by
  obtain ⟨x, hx⟩ := fwhtBody_done b d s
  rw [hx]
  exact h x

theorem modinvBody_post (s : State)
    (hdone : ∀ r, fin { s with res := r }) (hraise : ∀ r, raised .invzero { s with res := r }) :
    (modinvBody s).Post fin raised := by
  unfold modinvBody
  split
  · exact hraise _
  · exact hdone _

/-- CONFIG constructs with a dimension that fits NCFG, a length that fits NLEN and a root that suits it,
or raises PRECOND (43_orchestrator.md R194). -/
theorem configBody_post (t : SizeSel) (s : State)
    (hdone : ∀ n m, n < 2 ^ 31 → m ≤ 14 → rootOk s.root (2 ^ m) = true → fin (construct n m s))
    (hraise : raised .precond s) : (configBody t s).Post fin raised := by
  rcases configBody_cases t s with ⟨_, hcfg⟩ | ⟨_, hroot, hcfg⟩ <;> rw [hcfg]
  · exact hraise
  · exact hdone _ _ (dimension_toNat_lt s) (sizeLog_le _) hroot

theorem encrowBody_post (s : State)
    (hdone : ∀ buf, buf.length = s.nlen.toNat → fin (encoded s buf))
    (hraise : ∀ k, raised .materr (encodeFailed s k)) : (encrowBody s).Post fin raised := by
  rcases encrowBody_cases s with ⟨buf, hlen, _, henc⟩ | ⟨k, _, _, _, henc⟩ | ⟨_, henc⟩ <;> rw [henc]
  · exact hdone buf hlen
  · exact hraise k
  · trivial

theorem fuserowBody_post (s : State)
    (hdone : ∀ row psi reads,
      fin (advanceRow { s with row := row, psi := psi, matReads := reads }))
    (hraise : ∀ k, raised .materr (encodeFailed s k)) : (fuserowBody s).Post fin raised := by
  rcases fuserowBody_cases s with ⟨row, psi, hfuse⟩ | ⟨k, _, _, hfuse⟩ | ⟨_, hfuse⟩ <;> rw [hfuse]
  · exact hdone row psi _
  · exact hraise k
  · trivial

theorem extractBody_post (s : State)
    (h : ∀ psi, fin (emit (.phaseDone .extraction)
      { s with psi := psi, result := elem psi 0, phase := .done })) :
    (extractBody s).Post fin raised :=
  Body.Post.andThen (fwhtBody_post .psi .inverse s (fin := fun u => ∃ x, u = setBuf .psi x s)
    fun x => ⟨x, rfl⟩) (by rintro _ ⟨x, rfl⟩; exact h x)

end

/-! ### The loop of COMPUTE -/

/-- `k` rows are left to fuse, and PHASE says whether that is any (43_orchestrator.md R194, R201). -/
structure RowsLeft (k : Nat) (s : State) : Prop where
  count : s.rowcnt.toNat + k = s.ncfg.toNat
  phase : s.phase = if k = 0 then .fused else .fusion

theorem construct_rowsLeft {n : Nat} (m : Nat) (s : State) (hn : n < 2 ^ 31) :
    RowsLeft n (construct n m s) where
  count := by rw [construct_ncfg_toNat m s hn]; simp
  phase := construct_phase n m s

theorem RowsLeft.fuserow {k : Nat} {s : State} (h : RowsLeft (k + 1) s) :
    (fuserowBody s).Post (RowsLeft k) fun _ _ => True := by
  refine fuserowBody_post s (fun row psi reads => ?_) fun _ => trivial
  obtain ⟨hcount, hphase⟩ := h
  have hbound := s.ncfg.isLt
  refine ⟨?_, ?_⟩
  · simp only [advanceRow_rowcnt, advanceRow_ncfg]
    bv_omega
  · have hlast : s.rowcnt + 1 = s.ncfg ↔ k = 0 := ⟨fun h => by bv_omega, fun h => by bv_omega⟩
    simp only [advanceRow_phase, hphase, hlast]
    simp

/-- A property that each fused row keeps is kept by the loop of COMPUTE, which ends in phase FUSED. -/
theorem fuseRows_post {I : State → Prop} {raised : ErrCode → State → Prop}
    (hrow : ∀ u, I u → u.phase = .fusion → (fuserowBody u).Post I raised) :
    ∀ (k : Nat) (s : State), I s → RowsLeft k s →
      (fuseRows k s).Post (fun u => I u ∧ u.phase = .fused) raised
  | 0, _, hI, hk => ⟨hI, hk.phase⟩
  | k + 1, s, hI, hk =>
    ((hrow s hI hk.phase).and_fin hk.fuserow).andThen fun u hu => fuseRows_post hrow k u hu.1 hu.2

/-- A property that CONFIG establishes and that FUSEROW, MUTATE and EXTRACT keep, each in the phase
COMPUTE runs it in, holds at the end of COMPUTE, and PHASE is then DONE (43_orchestrator.md R210). -/
theorem computeBody_post {I : State → Prop} {raised : ErrCode → State → Prop} (t : SizeSel) (s : State)
    (hconfig : ∀ n m, n < 2 ^ 31 → m ≤ 14 → rootOk s.root (2 ^ m) = true → I (construct n m s))
    (hprecond : raised .precond s)
    (hrow : ∀ u, I u → u.phase = .fusion → (fuserowBody u).Post I raised)
    (hmutate : ∀ u, I u → u.phase = .fused → (mutateBody u).Post I raised)
    (hextract : ∀ u, I u → u.phase = .mutated → (extractBody u).Post I raised) :
    (computeBody t s).Post (fun u => I u ∧ u.phase = .done) raised := by
  have hconstructed : (configBody t s).Post (fun u => I u ∧ ∃ k, RowsLeft k u) raised :=
    configBody_post t s
      (fun n m hn hm hroot => ⟨hconfig n m hn hm hroot, n, construct_rowsLeft m s hn⟩) hprecond
  have hfuse : ∀ u, (I u ∧ ∃ k, RowsLeft k u) →
      (fuseRest u).Post (fun v => I v ∧ v.phase = .fused) raised := by
    rintro u ⟨hI, k, hk⟩
    have hcount : u.ncfg.toNat - u.rowcnt.toNat = k := by have := hk.count; omega
    rw [fuseRest, hcount]
    exact fuseRows_post hrow k u hI hk
  have hmutated : ∀ u, (I u ∧ u.phase = .fused) →
      (mutateBody u).Post (fun v => I v ∧ v.phase = .mutated) raised := fun u hu =>
    ⟨hmutate u hu.1 hu.2, rfl⟩
  have hextracted : ∀ u, (I u ∧ u.phase = .mutated) →
      (extractBody u).Post (fun v => I v ∧ v.phase = .done) raised := fun u hu =>
    (hextract u hu.1 hu.2).and_fin (extractBody_post (raised := fun _ _ => True) u fun _ => rfl)
  exact ((hconstructed.andThen hfuse).andThen hmutated).andThen hextracted

/-! ### Good states: the host, the platform and reset -/

/-- Reset leaves a good state whatever it finds, if MAT is in canonical form. -/
theorem stateInv_resetBlock {s : State} (hmat : s.mat.wf) : StateInv (resetBlock s) where
  unconf_iff := ⟨fun _ => rfl, fun _ => rfl⟩
  nlen_pow := fun h => absurd rfl h
  logn_le := Nat.zero_le _
  logn_unconf := fun _ => rfl
  kexp_eq := fun h => absurd rfl h
  root_ok := fun h => absurd rfl h
  rowcnt_le := le_rfl
  fusion_lt := nofun
  fused_eq := fun _ => rfl
  row_length := rfl
  psi_length := rfl
  err_iff := ⟨fun _ => rfl, fun _ => rfl⟩
  no_err_cmd := fun _ => rfl
  busy_cdone := nofun
  busy_err := nofun
  idle_old := fun _ => rfl
  mat_wf := hmat
  old_wf := nofun

/-- Settles O59: the state after reset is what reset makes of itself. -/
theorem resetHasTheInvariant : Obligations.ResetHasTheInvariant :=
  stateInv_resetBlock (s := State.reset) empty_wf

namespace StateInv

theorem setInputs {s : State} (h : StateInv s) (rest : List Move) :
    StateInv { s with inputs := rest } := { h with }

theorem reply {s : State} (h : StateInv s) (r : Reply) : StateInv (reply r s) := { h with }

/-- The contents MAT had are kept exactly while a command is in flight (log 4). -/
theorem placeMat {s : State} (h : StateInv s) (a : Word) (r : MatAnswer) :
    StateInv (placeMat a r s) :=
  { h with
    idle_old := fun hb => by
      have hidle : s.busy = false := hb
      simp [hidle, h.idle_old hidle]
    mat_wf := place_wf _ a r h.mat_wf
    old_wf := by
      intro m hm
      rw [placeMat_matOld] at hm
      split at hm
      · rcases List.mem_cons.1 hm with rfl | hm
        · exact h.mat_wf
        · exact h.old_wf m hm
      · exact h.old_wf m hm }

theorem setBuf {s : State} (h : StateInv s) (b : Buf) {x : List Residue}
    (hx : x.length = s.nlen.toNat) : StateInv (setBuf b x s) := by
  cases b with
  | row => exact { h with row_length := hx }
  | psi => exact { h with psi_length := hx }

theorem getBuf_length {s : State} (h : StateInv s) (b : Buf) :
    (getBuf b s).length = s.nlen.toNat := by
  cases b with
  | row => exact h.row_length
  | psi => exact h.psi_length

/-- An issue while ERR = 1 is one of SRESET (60_exceptions.md R251). -/
theorem issue {s : State} (h : StateInv s) {w : CmdWord} (hw : s.err = false ∨ w = 0x3F) :
    StateInv (issue w s) :=
  { h with
    busy_cdone := fun _ => rfl
    busy_err := fun _ he => hw.resolve_left (by
      have herr : s.err = true := he
      simp [herr])
    idle_old := nofun }

theorem regWrite {s t : State} (h : StateInv s) {v : Word} {r : Reg} (hw : regWrite s v r = some t) :
    StateInv t := by
  rcases regWrite_cases s t v r hw with ⟨_, _, hv, rfl⟩ | ⟨_, ⟨_, rfl⟩ | ⟨_, rfl⟩⟩ | ⟨_, _, rfl⟩ |
    ⟨_, ⟨_, rfl⟩ | ⟨_, rfl⟩ | ⟨_, _, rfl⟩ | ⟨_, rfl⟩ | ⟨_, rfl⟩⟩
  · exact h.issue (hv.imp_right fun hv => by rw [hv]; rfl)
  · exact h
  · exact { h with busy_cdone := fun _ => rfl }
  all_goals exact { h with }

theorem hostWrite {s t : State} (h : StateInv s) {off width : Nat} {v : Word}
    (hw : hostWrite s off width v = some t) : StateInv t := by
  obtain ⟨_, _, ⟨r, _, hreg⟩ | ⟨b, i, _, _, _, _, _, rfl⟩⟩ := hostWrite_cases s t off width v hw
  · exact h.regWrite hreg
  · exact h.setBuf b (by rw [List.length_set, h.getBuf_length b])

theorem access {s t : State} (h : StateInv s) {m : Move} (ha : access m s = .next t) :
    StateInv t := by
  rcases access_next m s t ha with ⟨r, rfl⟩ | ⟨_, _, _, u, _, hw, rfl⟩ | ⟨_, rfl⟩ | ⟨a, r, _, rfl⟩ |
    ⟨_, rfl⟩
  · exact h.reply r
  · exact (h.hostWrite hw).reply .ok
  · exact stateInv_resetBlock h.mat_wf
  · exact h.placeMat a r
  · exact h

/-! ### Good states: the end of a command -/

theorem completed {s : State} (h : StateInv s) : StateInv (completed s) :=
  { h with
    busy_cdone := nofun
    busy_err := nofun
    idle_old := fun _ => rfl
    old_wf := nofun }

theorem completedFault {s : State} (h : StateInv s) {c : ErrCode} (hc : c ≠ .none) :
    StateInv (completedFault c s) :=
  { h with
    err_iff := ⟨nofun, fun hn => absurd hn hc⟩
    no_err_cmd := nofun
    busy_cdone := nofun
    busy_err := nofun
    idle_old := fun _ => rfl
    old_wf := nofun }

/-! ### Good states: the orchestrator -/

/-- Construction keeps a state good: every value fits its register (43_orchestrator.md R191 to R194). -/
theorem construct {s : State} (h : StateInv s) {n m : Nat} (hn : n < 2 ^ 31) (hm : m ≤ 14)
    (hroot : rootOk s.root (2 ^ m) = true) : StateInv (construct n m s) := by
  have hncfg := construct_ncfg_toNat m s hn
  have hnlen : (Machine.construct n m s).nlen.toNat = 2 ^ m := by
    have hlen : 2 ^ m < 2 ^ 15 := Nat.pow_lt_pow_right (by decide) (by omega)
    rw [construct_nlen, BitVec.toNat_ofNat, Nat.mod_eq_of_lt hlen]
  have hlogn : (Machine.construct n m s).logn.toNat = m := by
    rw [construct_logn, BitVec.toNat_ofNat, Nat.mod_eq_of_lt (by omega)]
  have hkexp : (Machine.construct n m s).kexp.toNat = kExp n m := by
    have hfits : kExp n m < 2 ^ 64 := by
      have hmul : n * m ≤ 2 ^ 31 * 14 := Nat.mul_le_mul hn.le hm
      have harg : Config.lambdaNum * n * m = 6 * (n * m) := Nat.mul_assoc 6 n m
      unfold kExp
      rw [harg]
      simp only [Config.lambdaDen]
      omega
    rw [construct_kexp, BitVec.toNat_ofNat, Nat.mod_eq_of_lt hfits]
  have hphase : (Machine.construct n m s).phase ≠ .unconf := by
    rw [construct_phase]
    split <;> decide
  have hpos : 0 < 2 ^ m := Nat.two_pow_pos m
  exact
  { unconf_iff := ⟨fun hu => absurd hu hphase, fun hz => by omega⟩
    nlen_pow := fun _ => by rw [hnlen, hlogn]
    logn_le := by rw [hlogn]; exact hm
    logn_unconf := fun hu => absurd hu hphase
    kexp_eq := fun _ => by rw [hkexp, hncfg, hlogn]
    root_ok := fun _ => by rw [hnlen, construct_root]; exact hroot
    rowcnt_le := by simp
    fusion_lt := by
      rw [hncfg, construct_phase, construct_rowcnt]
      split
      · nofun
      · next hne => exact fun _ => Nat.pos_of_ne_zero hne
    fused_eq := by
      rw [construct_phase, construct_rowcnt, construct_ncfg]
      split
      · next hz => exact fun _ => by rw [hz]; rfl
      · rintro (hf | hf | hf) <;> cases hf
    row_length := by rw [hnlen]; simp
    psi_length := by rw [hnlen]; simp
    err_iff := by simpa using h.err_iff
    no_err_cmd := by simpa using h.no_err_cmd
    busy_cdone := by simpa using h.busy_cdone
    busy_err := by simpa using h.busy_err
    idle_old := by simpa using h.idle_old
    mat_wf := by rw [construct_mat]; exact h.mat_wf
    old_wf := by rw [construct_matOld]; exact h.old_wf }

/-- With every row fused PHASE may move on to any later phase (10_state.md R63 (c)). -/
theorem allFused {s : State} (h : StateInv s) (hconf : s.phase ≠ .unconf) {r : BitVec 31}
    (hall : r = s.ncfg) {p : Phase} (hp : p = .fused ∨ p = .mutated ∨ p = .done) :
    StateInv { s with rowcnt := r, phase := p } := by
  have hpconf : p ≠ .unconf := by rcases hp with rfl | rfl | rfl <;> decide
  have hpfusion : p ≠ .fusion := by rcases hp with rfl | rfl | rfl <;> decide
  exact
  { h with
    unconf_iff := ⟨fun hu => absurd hu hpconf, fun hz => absurd (h.unconf_iff.2 hz) hconf⟩
    nlen_pow := fun _ => h.nlen_pow hconf
    logn_unconf := fun hu => absurd hu hpconf
    kexp_eq := fun _ => h.kexp_eq hconf
    root_ok := fun _ => h.root_ok hconf
    rowcnt_le := (congrArg BitVec.toNat hall).le
    fusion_lt := fun hf => absurd hf hpfusion
    fused_eq := fun _ => hall }

theorem emit {s : State} (h : StateInv s) (e : Event) : StateInv (emit e s) := { h with }

theorem encoded {s : State} (h : StateInv s) {buf : List Residue} (hbuf : buf.length = s.nlen.toNat) :
    StateInv (encoded s buf) := { h with row_length := hbuf }

theorem encodeFailed {s : State} (h : StateInv s) (k : Nat) : StateInv (encodeFailed s k) :=
  { h with row_length := freeRow_length s }

/-- Counting a row that is not the last keeps the fusion phase; counting the last one ends it
(43_orchestrator.md R201). -/
theorem advanceRow {s : State} (h : StateInv s) (hp : s.phase = .fusion) : StateInv (advanceRow s) := by
  have hlt := h.fusion_lt hp
  have hbound := s.ncfg.isLt
  have hnext : (s.rowcnt + 1).toNat = s.rowcnt.toNat + 1 := by bv_omega
  have hconf : s.phase ≠ .unconf := by rw [hp]; decide
  unfold Machine.advanceRow
  split
  · next hlast => exact { h.allFused hconf hlast (.inl rfl) with }
  · next hmore =>
    have hne : (s.rowcnt + 1).toNat ≠ s.ncfg.toNat := fun he => hmore (BitVec.eq_of_toNat_eq he)
    exact
    { h with
      rowcnt_le := show (s.rowcnt + 1).toNat ≤ s.ncfg.toNat by omega
      fusion_lt := fun _ => show (s.rowcnt + 1).toNat < s.ncfg.toNat by omega
      fused_eq := fun hf => by
        have hf : s.phase = .fused ∨ s.phase = .mutated ∨ s.phase = .done := hf
        simp [hp] at hf }

end StateInv

/-! ### Good states: every command -/

/-- Every end of a command's pseudocode is a good state; a fault has a code. -/
abbrev Body.KeepsInv (b : Body) : Prop := b.Post StateInv fun c u => c ≠ .none ∧ StateInv u

theorem nttBody_keepsInv {s : State} (h : StateInv s) (hp : s.phase ≠ .unconf) (b : Buf) (d : Dir) :
    (nttBody b d s).KeepsInv := by
  rw [nttBody_eq b d s (h.nlen_pow hp)]
  exact h.setBuf b ((nttSeq_length _ _ _ _).trans (h.nlen_pow hp).symm)

theorem fwhtBody_keepsInv {s : State} (h : StateInv s) (hp : s.phase ≠ .unconf) (b : Buf) (d : Dir) :
    (fwhtBody b d s).KeepsInv := by
  have hpow := h.nlen_pow hp
  rw [fwhtBody_eq b d s hpow]
  exact h.setBuf b ((fwhtSeq_length _ d _ ((h.getBuf_length b).trans hpow)).trans hpow.symm)

theorem pmulBody_keepsInv {s : State} (h : StateInv s) : (pmulBody s).KeepsInv :=
  { h with psi_length := by rw [mulSeq_length, h.row_length, h.psi_length, min_self] }

theorem encrowBody_keepsInv {s : State} (h : StateInv s) : (encrowBody s).KeepsInv :=
  encrowBody_post s (fun _ hlen => h.encoded hlen) fun k => ⟨by decide, h.encodeFailed k⟩

/-- The parts of FUSEROW before the count keep PHASE, so the row is counted in the fusion phase. -/
theorem fuserowBody_keepsInv {s : State} (h : StateInv s) (hp : s.phase = .fusion) :
    (fuserowBody s).KeepsInv := by
  have hconf : ∀ u : State, u.phase = .fusion → u.phase ≠ .unconf := fun u hu => by rw [hu]; decide
  have henc : (encrowBody s).Post (fun u => StateInv u ∧ u.phase = .fusion)
      fun c u => c ≠ .none ∧ StateInv u :=
    (encrowBody_keepsInv h).and_fin
      (encrowBody_post (raised := fun _ _ => True) s (fun _ _ => hp) fun _ => trivial)
  have hntt : ∀ u, (StateInv u ∧ u.phase = .fusion) → (nttBody .row .forward u).Post
      (fun v => StateInv v ∧ v.phase = .fusion) fun c v => c ≠ .none ∧ StateInv v := fun u hu =>
    (nttBody_keepsInv hu.1 (hconf u hu.2) .row .forward).and_fin
      (nttBody_post (raised := fun _ _ => True) .row .forward u fun _ => hu.2)
  have hpmul : ∀ u, (StateInv u ∧ u.phase = .fusion) → (pmulBody u).Post
      (fun v => StateInv v ∧ v.phase = .fusion) fun c v => c ≠ .none ∧ StateInv v := fun u hu =>
    (pmulBody_keepsInv hu.1).and_fin (raised' := fun _ _ => True) hu.2
  exact ((henc.andThen hntt).andThen hpmul).andThen fun u hu => hu.1.advanceRow hu.2

theorem mutateBody_keepsInv {s : State} (h : StateInv s) (hp : s.phase = .fused) :
    (mutateBody s).KeepsInv := by
  have hpsi : StateInv { s with psi := mutateSeq s.kexp.toNat s.psi } :=
    { h with psi_length := (mutateSeq_length _ _).trans h.psi_length }
  exact (hpsi.allFused (by rw [hp]; decide) (h.fused_eq (.inl hp)) (.inr (.inl rfl))).emit _

theorem extractBody_keepsInv {s : State} (h : StateInv s) (hp : s.phase = .mutated) :
    (extractBody s).KeepsInv := by
  have hconf : s.phase ≠ .unconf := by rw [hp]; decide
  have hsame : (fwhtBody .psi .inverse s).Post
      (fun u => u.phase = s.phase ∧ u.rowcnt = u.ncfg) fun _ _ => True :=
    fwhtBody_post .psi .inverse s fun _ => ⟨rfl, h.fused_eq (.inr (.inl hp))⟩
  refine ((fwhtBody_keepsInv h hconf .psi .inverse).and_fin hsame).andThen ?_
  rintro u ⟨hu, hphase, hall⟩
  have hresult : StateInv { u with result := elem u.psi 0 } := { hu with }
  exact (hresult.allFused (hphase.trans_ne hconf) hall (.inr (.inr rfl))).emit _

theorem bodyOf_keepsInv {i : Instr} {s : State} (h : StateInv s)
    (hp : phaseAllowed i s.phase = true) : (bodyOf i s).KeepsInv := by
  cases i with
  | nop => exact h
  | modpow => exact { h with }
  | modinv => exact modinvBody_post s (fun _ => { h with }) fun _ => ⟨by decide, { h with }⟩
  | bitrev b =>
    have hpow := h.nlen_pow (by simpa [phaseAllowed] using hp)
    exact h.setBuf b ((bitRevSeq_length _ _).trans hpow.symm)
  | nttbf b d =>
    have hpow := h.nlen_pow (by simpa [phaseAllowed] using hp)
    exact h.setBuf b
      ((nttStages_length _ d _ _ ((h.getBuf_length b).trans hpow)).trans hpow.symm)
  | ntt b d => exact nttBody_keepsInv h (by simpa [phaseAllowed] using hp) b d
  | fwht b d => exact fwhtBody_keepsInv h (by simpa [phaseAllowed] using hp) b d
  | scale b => exact h.setBuf b ((scaleSeq_length _ _).trans (h.getBuf_length b))
  | pmul => exact pmulBody_keepsInv h
  | config t =>
    exact configBody_post t s (fun _ _ hn hm hroot => h.construct hn hm hroot) ⟨by decide, h⟩
  | encrow => exact encrowBody_keepsInv h
  | fuserow => exact fuserowBody_keepsInv h (by simpa [phaseAllowed] using hp)
  | mutate => exact mutateBody_keepsInv h (by simpa [phaseAllowed] using hp)
  | extract => exact extractBody_keepsInv h (by simpa [phaseAllowed] using hp)
  | compute t =>
    have hcompute := computeBody_post t s
      (fun _ _ hn hm hroot => h.construct hn hm hroot) ⟨by decide, h⟩
      (fun _ => fuserowBody_keepsInv) (fun _ => mutateBody_keepsInv) (fun _ => extractBody_keepsInv)
    exact hcompute.imp (fun _ hu => hu.1) fun _ _ hu => hu
  | sreset => exact stateInv_resetBlock h.mat_wf

theorem StateInv.completion {s t : State} (h : StateInv s) (hc : completion s = .next t) :
    StateInv t := by
  unfold Machine.completion at hc
  split at hc
  · exact exec_post (fun hp => bodyOf_keepsInv h hp) h (h.completedFault (by decide))
      (fun _ hu => hu.completed) (fun _ _ hu => hu.2.completedFault hu.1) hc
  · obtain rfl := Host.Outcome.next.inj hc
    exact h.completedFault (c := .illcmd) (by decide)

/-- Settles O60: a step is the completion of the latched command, one move of the host or the platform,
or nothing, and each of these keeps a good state good. -/
theorem stepKeepsTheInvariant : Obligations.StepKeepsTheInvariant := by
  intro s t h hstep
  rcases step_cases s with ⟨u, _, hturn, hu⟩ | ⟨m, rest, _, _, hm⟩ | ⟨_, _, hidle⟩
  · refine StateInv.completion ?_ (hu.symm.trans hstep)
    rcases blockTurn_cases s u hturn with rfl | ⟨rest, _, rfl⟩
    · exact h
    · exact h.setInputs rest
  · exact (h.setInputs rest).access (hm.symm.trans hstep)
  · exact Host.Outcome.next.inj (hidle.symm.trans hstep) ▸ h

/-! ### Who writes what -/

/-- What every command but SRESET leaves of the registers, the fault record and the trace while its
pseudocode runs, RES apart, which only MODPOW and MODINV write. -/
structure KeepsOutside (s u : State) : Prop extends SameOutside s u where
  record : sameFaultRecord s u
  res : u.res = s.res
  trace : s.trace <+: u.trace

namespace KeepsOutside

theorem refl (s : State) : KeepsOutside s s where
  toSameOutside := by constructor <;> rfl
  record := ⟨rfl, rfl, rfl⟩
  res := rfl
  trace := ⟨[], List.append_nil _⟩

theorem trans {s u v : State} (h : KeepsOutside s u) (k : KeepsOutside u v) : KeepsOutside s v where
  opa := k.opa.trans h.opa
  opb := k.opb.trans h.opb
  ndim := k.ndim.trans h.ndim
  target := k.target.trans h.target
  mbase := k.mbase.trans h.mbase
  ie := k.ie.trans h.ie
  lcmd := k.lcmd.trans h.lcmd
  root := k.root.trans h.root
  mat := k.mat.trans h.mat
  inputs := k.inputs.trans h.inputs
  replies := k.replies.trans h.replies
  record := by
    obtain ⟨herr, hcode, hcmd⟩ := h.record
    obtain ⟨kerr, kcode, kcmd⟩ := k.record
    exact ⟨kerr.trans herr, kcode.trans hcode, kcmd.trans hcmd⟩
  res := k.res.trans h.res
  trace := h.trace.trans k.trace

theorem emit (s : State) (e : Event) : KeepsOutside s (emit e s) :=
  { refl s with trace := ⟨_, rfl⟩ }

theorem construct (n m : Nat) (s : State) : KeepsOutside s (construct n m s) where
  toSameOutside := by constructor <;> simp
  record := by simp [sameFaultRecord]
  res := by simp
  trace := by
    rw [construct_trace]
    split
    · exact ⟨_, rfl⟩
    · exact ⟨[], List.append_nil _⟩

theorem fuserow (s : State) (row psi : List Residue) (reads : List Word) :
    KeepsOutside s (advanceRow { s with row := row, psi := psi, matReads := reads }) where
  toSameOutside := by constructor <;> simp
  record := by simp [sameFaultRecord]
  res := by simp
  trace := by rw [advanceRow_trace]; exact ⟨_, rfl⟩

theorem encodeFailed (s : State) (k : Nat) : KeepsOutside s (encodeFailed s k) := { refl s with }

end KeepsOutside

theorem mutateBody_keepsOutside {raised : ErrCode → State → Prop} (s : State) :
    (mutateBody s).Post (KeepsOutside s) raised :=
  KeepsOutside.trans (u := { s with psi := mutateSeq s.kexp.toNat s.psi, phase := .mutated })
    { KeepsOutside.refl s with } (KeepsOutside.emit _ _)

theorem extractBody_keepsOutside {raised : ErrCode → State → Prop} (s : State) :
    (extractBody s).Post (KeepsOutside s) raised :=
  extractBody_post s fun psi => KeepsOutside.trans
    (u := { s with psi := psi, result := elem psi 0, phase := .done })
    { KeepsOutside.refl s with } (KeepsOutside.emit _ _)

/-- COMPUTE is done in phase DONE, or construction was refused and nothing has changed, or a row could
not be read and the computation stands in the fusion (43_orchestrator.md R210, 60_exceptions.md R246). -/
theorem computeBody_keepsOutside (t : SizeSel) (s : State) :
    (computeBody t s).Post (fun u => KeepsOutside s u ∧ u.phase = .done) fun c u =>
      KeepsOutside s u ∧ (u = s ∨ c = .materr ∧ u.phase = .fusion) :=
  computeBody_post t s (fun n m _ _ _ => KeepsOutside.construct n m s)
    ⟨KeepsOutside.refl s, .inl rfl⟩
    (fun u hu hp => fuserowBody_post u
      (fun row psi reads => hu.trans (KeepsOutside.fuserow u row psi reads))
      fun k => ⟨hu.trans (KeepsOutside.encodeFailed u k), .inr ⟨rfl, hp⟩⟩)
    (fun u hu _ => (mutateBody_keepsOutside u).imp (fun _ => hu.trans) fun _ _ h => h)
    (fun u hu _ => (extractBody_keepsOutside u).imp (fun _ => hu.trans) fun _ _ h => h)

/-- A command writes only the registers and buffers the spec lets it write, and emits only if it is one
that may (10_state.md R31 to R52, 60_exceptions.md R262). -/
structure WritesOwn (i : Instr) (s t : State) : Prop extends SameOutside s t where
  res : i ≠ .modpow → i ≠ .modinv → t.res = s.res
  config : constructs i = false → sameConfig s t
  result : constructs i = false → i ≠ .extract → t.result = s.result
  rowcnt : constructs i = false → i ≠ .fuserow → t.rowcnt = s.rowcnt
  row : writesBuf .row i = false → t.row = s.row
  psi : writesBuf .psi i = false → t.psi = s.psi
  trace : ∃ ev, t.trace = s.trace ++ ev ∧ (mayEmit i = false → ev = [])

namespace WritesOwn

theorem refl (i : Instr) (s : State) : WritesOwn i s s where
  toSameOutside := (KeepsOutside.refl s).toSameOutside
  res _ _ := rfl
  config _ := ⟨rfl, rfl, rfl, rfl, rfl⟩
  result _ _ := rfl
  rowcnt _ _ := rfl
  row _ := rfl
  psi _ := rfl
  trace := ⟨[], (List.append_nil _).symm, fun _ => rfl⟩

theorem setBuf {i : Instr} {b : Buf} (hb : writesBuf b i = true) (x : List Residue) (s : State) :
    WritesOwn i s (setBuf b x s) := by
  cases b with
  | row => exact { refl i s with row := fun hn => absurd (hb.symm.trans hn) (by decide) }
  | psi => exact { refl i s with psi := fun hn => absurd (hb.symm.trans hn) (by decide) }

theorem trace_of_mayEmit {i : Instr} (hi : mayEmit i = true) {s u : State} (h : KeepsOutside s u) :
    ∃ ev, u.trace = s.trace ++ ev ∧ (mayEmit i = false → ev = []) := by
  obtain ⟨ev, hev⟩ := h.trace
  exact ⟨ev, hev.symm, fun hn => absurd (hi.symm.trans hn) (by decide)⟩

/-- A command that constructs may write every register of the block, both buffers and the trace. -/
theorem of_constructs {i : Instr} (hi : constructs i = true) (hbuf : ∀ b, writesBuf b i = true)
    (hemit : mayEmit i = true) {s u : State} (h : KeepsOutside s u) : WritesOwn i s u :=
  { h with
    res := fun _ _ => h.res
    config := fun hn => absurd (hi.symm.trans hn) (by decide)
    result := fun hn => absurd (hi.symm.trans hn) (by decide)
    rowcnt := fun hn => absurd (hi.symm.trans hn) (by decide)
    row := fun hn => absurd ((hbuf .row).symm.trans hn) (by decide)
    psi := fun hn => absurd ((hbuf .psi).symm.trans hn) (by decide)
    trace := trace_of_mayEmit hemit h }

theorem completed {i : Instr} {s u : State} (h : WritesOwn i s u) : WritesOwn i s (completed u) :=
  { h with }

theorem completedFault {i : Instr} {s u : State} (c : ErrCode) (h : WritesOwn i s u) :
    WritesOwn i s (completedFault c u) :=
  { h with }

end WritesOwn

theorem bodyOf_writesOwn {i : Instr} (hi : i ≠ .sreset) (s : State) :
    (bodyOf i s).Post (WritesOwn i s) fun _ u => WritesOwn i s u := by
  have hkeep := WritesOwn.refl i s
  cases i with
  | nop => exact hkeep
  | modpow => exact { hkeep with res := fun hn _ => absurd rfl hn }
  | modinv =>
    exact modinvBody_post s (fun _ => { hkeep with res := fun _ hn => absurd rfl hn })
      fun _ => { hkeep with res := fun _ hn => absurd rfl hn }
  | bitrev b | nttbf b _ | scale b => exact WritesOwn.setBuf (b := b) (by simp [writesBuf]) _ s
  | ntt b d => exact nttBody_post b d s fun x => WritesOwn.setBuf (by simp [writesBuf]) x s
  | fwht b d => exact fwhtBody_post b d s fun x => WritesOwn.setBuf (by simp [writesBuf]) x s
  | pmul => exact { hkeep with psi := nofun }
  | config t =>
    exact configBody_post t s
      (fun n m _ _ _ => WritesOwn.of_constructs rfl (fun _ => rfl) rfl (KeepsOutside.construct n m s))
      hkeep
  | encrow =>
    exact encrowBody_post s (fun _ _ => { hkeep with row := nofun })
      fun _ => { hkeep with row := nofun }
  | fuserow =>
    refine fuserowBody_post s (fun row psi reads => ?_) fun _ => { hkeep with row := nofun }
    have hrow := KeepsOutside.fuserow s row psi reads
    exact { hrow with
      res := fun _ _ => hrow.res
      config := fun _ => by simp [sameConfig]
      result := fun _ _ => by simp
      rowcnt := fun _ hn => absurd rfl hn
      row := nofun
      psi := nofun
      trace := WritesOwn.trace_of_mayEmit rfl hrow }
  | mutate =>
    exact { hkeep with
      psi := nofun
      trace := ⟨[_], rfl, nofun⟩ }
  | extract =>
    exact extractBody_post s fun psi => { hkeep with
      result := fun _ hn => absurd rfl hn
      psi := nofun
      trace := ⟨[_], rfl, nofun⟩ }
  | compute t =>
    have hall : ∀ {u}, KeepsOutside s u → WritesOwn (.compute t) s u :=
      WritesOwn.of_constructs rfl (fun _ => rfl) rfl
    exact (computeBody_keepsOutside t s).imp (fun _ hu => hall hu.1) fun _ _ hu => hall hu.1
  | sreset => exact absurd rfl hi

/-- Settles O13: what the ends of the pseudocode keep, the completion keeps, since it writes BUSY, CDONE
and the fault record only. -/
theorem registersHaveTheirWriters : Obligations.RegistersHaveTheirWriters := by
  intro i s t hi h
  have hkeep := WritesOwn.refl i s
  have hown : WritesOwn i s t := exec_post (fun _ => bodyOf_writesOwn hi s) hkeep (hkeep.completedFault _)
    (fun _ hu => hu.completed) (fun c _ hu => hu.completedFault c) h
  exact ⟨hown.toSameOutside, hown.res, hown.config, hown.result, hown.rowcnt, hown.row, hown.psi,
    hown.trace⟩

/-! ### PHASE -/

/-- A row of the table of phase transitions, or no move of PHASE (43_orchestrator.md R213). -/
inductive PhaseMove (s t : State) : Instr → Prop where
  | stays {i : Instr} (hp : t.phase = s.phase) : PhaseMove s t i
  | sreset (hp : t.phase = .unconf) : PhaseMove s t .sreset
  | configEmpty (z : SizeSel) (hn : t.ncfg.toNat = 0) (hp : t.phase = .fused) : PhaseMove s t (.config z)
  | config (z : SizeSel) (hn : 0 < t.ncfg.toNat) (hp : t.phase = .fusion) : PhaseMove s t (.config z)
  | lastRow (hs : s.phase = .fusion) (hall : t.rowcnt = t.ncfg) (hp : t.phase = .fused) :
      PhaseMove s t .fuserow
  | mutate (hs : s.phase = .fused) (hp : t.phase = .mutated) : PhaseMove s t .mutate
  | extract (hs : s.phase = .mutated) (hp : t.phase = .done) : PhaseMove s t .extract
  | compute (z : SizeSel) (hr : sameFaultRecord s t) (hp : t.phase = .done) :
      PhaseMove s t (.compute z)
  | computeFails (z : SizeSel) (he : t.err = true) (hc : t.errcode = .materr) (hp : t.phase = .fusion) :
      PhaseMove s t (.compute z)

/-- Counting a row ends the fusion phase only where the row was the last (43_orchestrator.md R201). -/
theorem advanceRow_phaseMove {s u : State} (hs : s.phase = .fusion) (hu : u.phase = s.phase) :
    PhaseMove s (completed (advanceRow u)) .fuserow := by
  have hphase := advanceRow_phase u
  by_cases hlast : u.rowcnt + 1 = u.ncfg
  · have hall : (advanceRow u).rowcnt = (advanceRow u).ncfg := by
      rw [advanceRow_rowcnt, advanceRow_ncfg, hlast]
    exact .lastRow hs hall (hphase.trans (if_pos hlast))
  · exact .stays ((hphase.trans (if_neg hlast)).trans hu)

/-- A completion adds only the fault record, which the row of a failed COMPUTE names. -/
theorem bodyOf_phaseMove {i : Instr} {s : State} (hp : phaseAllowed i s.phase = true) :
    (bodyOf i s).Post (fun u => PhaseMove s (completed u) i)
      fun c u => PhaseMove s (completedFault c u) i := by
  cases i with
  | nop | modpow | pmul => exact .stays rfl
  | modinv => exact modinvBody_post s (fun _ => .stays rfl) fun _ => .stays rfl
  | bitrev b | nttbf b _ | scale b => exact .stays (setBuf_phase b _ s)
  | ntt b d => exact nttBody_post b d s fun x => .stays (setBuf_phase b x s)
  | fwht b d => exact fwhtBody_post b d s fun x => .stays (setBuf_phase b x s)
  | config t =>
    refine configBody_post t s (fun n m hn _ _ => ?_) (.stays rfl)
    have hncfg := construct_ncfg_toNat m s hn
    by_cases hz : n = 0
    · exact .configEmpty t (hncfg.trans hz) ((construct_phase n m s).trans (if_pos hz))
    · exact .config t (Nat.pos_of_ne_zero (hncfg.trans_ne hz))
        ((construct_phase n m s).trans (if_neg hz))
  | encrow => exact encrowBody_post s (fun _ _ => .stays rfl) fun _ => .stays rfl
  | fuserow =>
    have hs : s.phase = .fusion := by simpa [phaseAllowed] using hp
    exact fuserowBody_post s (fun row psi reads => advanceRow_phaseMove hs rfl) fun _ => .stays rfl
  | mutate => exact .mutate (by simpa [phaseAllowed] using hp) rfl
  | extract => exact extractBody_post s fun _ => .extract (by simpa [phaseAllowed] using hp) rfl
  | compute t =>
    refine (computeBody_keepsOutside t s).imp (fun u hu => .compute t hu.1.record hu.2) ?_
    rintro c u ⟨_, rfl | ⟨rfl, hphase⟩⟩
    · exact .stays rfl
    · exact .computeFails t rfl rfl hphase
  | sreset => exact .sreset rfl

/-- Settles O12: the moves of `bodyOf_phaseMove` are the rows of the table. -/
theorem phaseTransitions : Obligations.PhaseTransitions := by
  intro i s t h
  have hmove : PhaseMove s t i :=
    exec_post (P := fun v => PhaseMove s v i) bodyOf_phaseMove (.stays rfl) (.stays rfl)
      (fun _ hu => hu) (fun _ _ hu => hu) h
  cases hmove with
  | stays hp => exact .inl hp
  | sreset hp => exact .inr (.inl ⟨rfl, hp⟩)
  | configEmpty z hn hp => exact .inr (.inr (.inl ⟨z, rfl, .inl ⟨hn, hp⟩⟩))
  | config z hn hp => exact .inr (.inr (.inl ⟨z, rfl, .inr ⟨hn, hp⟩⟩))
  | lastRow hs hall hp => exact .inr (.inr (.inr (.inl ⟨rfl, hs, hall, hp⟩)))
  | mutate hs hp => exact .inr (.inr (.inr (.inr (.inl ⟨rfl, hs, hp⟩))))
  | extract hs hp => exact .inr (.inr (.inr (.inr (.inr (.inl ⟨rfl, hs, hp⟩)))))
  | compute z hr hp => exact .inr (.inr (.inr (.inr (.inr (.inr ⟨z, rfl, .inl ⟨hr, hp⟩⟩)))))
  | computeFails z he hc hp =>
    exact .inr (.inr (.inr (.inr (.inr (.inr ⟨z, rfl, .inr ⟨he, hc, hp⟩⟩)))))

/-! ### MAT and the root -/

/-- No completion step changes the root or MAT (10_state.md R59, 20_memory.md R74). -/
theorem completion_root_mat {s t : State} (h : completion s = .next t) :
    t.root = s.root ∧ t.mat = s.mat := by
  unfold completion at h
  split at h
  · next i _ =>
    by_cases hi : i = .sreset
    · subst hi
      obtain rfl := Host.Outcome.next.inj h
      exact ⟨rfl, rfl⟩
    · obtain ⟨hsame, _⟩ := registersHaveTheirWriters i s t hi h
      exact ⟨hsame.root, hsame.mat⟩
  · obtain rfl := Host.Outcome.next.inj h
    exact ⟨rfl, rfl⟩

theorem hostWrite_root_mat {s t : State} {off width : Nat} {v : Word}
    (h : hostWrite s off width v = some t) : t.root = s.root ∧ t.mat = s.mat := by
  obtain ⟨_, _, ⟨r, _, hreg⟩ | ⟨b, i, _, _, _, _, _, rfl⟩⟩ := hostWrite_cases s t off width v h
  · rcases regWrite_cases s t v r hreg with ⟨_, _, _, rfl⟩ | ⟨_, ⟨_, rfl⟩ | ⟨_, rfl⟩⟩ | ⟨_, _, rfl⟩ |
      ⟨_, ⟨_, rfl⟩ | ⟨_, rfl⟩ | ⟨_, _, rfl⟩ | ⟨_, rfl⟩ | ⟨_, rfl⟩⟩ <;> exact ⟨rfl, rfl⟩
  · exact ⟨setBuf_root b _ s, setBuf_mat b _ s⟩

/-- A move of the host or the platform changes MAT only where it is the platform's change of a word. -/
theorem access_root_mat {m : Move} {s t : State} (h : access m s = .next t) :
    t.root = s.root ∧ (t.mat = s.mat ∨ ∃ a r, m = .place a r ∧ t.mat = s.mat.place a r) := by
  rcases access_next m s t h with ⟨r, rfl⟩ | ⟨_, _, _, u, _, hw, rfl⟩ | ⟨_, rfl⟩ | ⟨a, r, rfl, rfl⟩ |
    ⟨_, rfl⟩
  · exact ⟨rfl, .inl rfl⟩
  · obtain ⟨hroot, hmat⟩ := hostWrite_root_mat hw
    exact ⟨hroot, .inl hmat⟩
  · exact ⟨rfl, .inl rfl⟩
  · exact ⟨rfl, .inr ⟨a, r, rfl, rfl⟩⟩
  · exact ⟨rfl, .inl rfl⟩

theorem step_root_mat {s t : State} (h : step s = .next t) :
    t.root = s.root ∧
      (t.mat = s.mat ∨ ∃ a r rest, s.inputs = .place a r :: rest ∧ t.mat = s.mat.place a r) := by
  rcases step_cases s with ⟨u, _, hturn, hu⟩ | ⟨m, rest, hin, _, hm⟩ | ⟨_, _, hidle⟩
  · have hsame : u.root = s.root ∧ u.mat = s.mat := by
      rcases blockTurn_cases s u hturn with rfl | ⟨rest, _, rfl⟩ <;> exact ⟨rfl, rfl⟩
    obtain ⟨hroot, hmat⟩ := completion_root_mat (hu.symm.trans h)
    exact ⟨hroot.trans hsame.1, .inl (hmat.trans hsame.2)⟩
  · obtain ⟨hroot, hmat | ⟨a, r, rfl, hplace⟩⟩ := access_root_mat (hm.symm.trans h)
    · exact ⟨hroot, .inl hmat⟩
    · exact ⟨hroot, .inr ⟨a, r, rest, hin, hplace⟩⟩
  · obtain rfl := Host.Outcome.next.inj (hidle.symm.trans h)
    exact ⟨rfl, .inl rfl⟩

/-- A read returns the answer of one of the contents MAT has held since the issue (20_memory.md R88). -/
theorem matRead_mem (s : State) (a : Word) : ∃ m ∈ s.mat :: s.matOld, matRead s a = m.answer a := by
  cases hold : s.matOld with
  | nil => exact ⟨s.mat, List.mem_cons_self, matRead_stable s a hold⟩
  | cons m old =>
    have hlt : Config.raceVersion s.freeCount a % (s.mat :: m :: old).length <
      (s.mat :: m :: old).length := Nat.mod_lt _ (Nat.succ_pos _)
    refine ⟨_, List.getElem_mem hlt, ?_⟩
    simp only [matRead, hold]
    rw [List.getD_eq_getElem _ _ hlt]

/-- Settles O58: of all a step can be, only the platform's own move places a word in MAT. -/
theorem onlyThePlatformChangesMat : Obligations.OnlyThePlatformChangesMat := by
  refine ⟨fun s t h => ?_, fun s a => ⟨matRead_stable s a, matRead_mem s a⟩⟩
  obtain ⟨hroot, hmat | ⟨a, r, rest, hin, hmat⟩⟩ := step_root_mat h
  · exact ⟨hroot, .inl fun a => by rw [hmat]⟩
  · refine ⟨hroot, .inr ⟨a, r, rest, hin, ?_, fun b hb => ?_⟩⟩
    · rw [hmat, answer_place_same]
    · rw [hmat, answer_place_other _ _ _ _ hb]

/-! ### SRESET and the reset input -/

/-- A move that is not held takes place, whether a command is in flight or not (44_system.md R238). -/
theorem step_overtakes {s : State} {m : Move} {rest : List Move} (hi : s.inputs = m :: rest)
    (ho : overtakes m = true) : step s = access m { s with inputs := rest } := by
  rcases step_cases s with ⟨u, _, hturn, _⟩ | ⟨m', rest', hi', _, hm⟩ | ⟨_, hnil, _⟩
  · have hnone : blockTurn s = none := by
      unfold blockTurn
      rw [hi]
      cases m with
      | wait => cases ho
      | read | write | rst | place => exact if_pos ho
    exact absurd (hturn.symm.trans hnone) (by simp)
  · obtain ⟨rfl, rfl⟩ := List.cons_eq_cons.1 (hi'.symm.trans hi)
    exact hm
  · exact absurd (hnil.symm.trans hi) (by simp)

/-- Settles O50: SRESET is a completion after `resetBlock`, the reset input is `resetBlock` alone; the
latch LCMD, which the statement does not fix, holds what `State.reset` gives it (log 2). -/
theorem sresetAndRst : Obligations.SresetAndRst := fun s =>
  ⟨State.reset.lcmd, (exec_eq .sreset s).trans rfl, fun _ hi => step_overtakes hi rfl⟩

/-! ### STATUS -/

theorem flagBit_eq (b : Bool) (n : Nat) : flagBit b n = b.toNat * 2 ^ n := by
  cases b <;> simp [flagBit]

theorem Phase.code_le (p : Phase) : p.code ≤ 4 := by cases p <;> decide

theorem ErrCode.code_le (c : ErrCode) : c.code ≤ 5 := by cases c <;> decide

/-- The five flags of STATUS as a number (10_state.md R38). -/
def flagsNat (s : State) : Nat :=
  s.busy.toNat + 2 * (cfgFlag s).toNat + 4 * (doneFlag s).toNat + 8 * s.err.toNat + 16 * s.cdone.toNat

theorem flagsNat_lt (s : State) : flagsNat s < 32 := by
  have hbusy := s.busy.toNat_le
  have hcfg := (cfgFlag s).toNat_le
  have hdone := (doneFlag s).toNat_le
  have herr := s.err.toNat_le
  have hcdone := s.cdone.toNat_le
  unfold flagsNat
  omega

/-- STATUS as a number; no field runs over into the next, and none is lost (10_state.md R38). -/
theorem statusWord_toNat (s : State) :
    (statusWord s).toNat = flagsNat s + 256 * s.phase.code + 65536 * s.errcode.code := by
  have hflags := flagsNat_lt s
  have hphase := s.phase.code_le
  have hcode := s.errcode.code_le
  unfold flagsNat at hflags ⊢
  simp only [statusWord, flagBit_eq, BitVec.toNat_ofNat]
  omega

/-- A bit of a word is the flag its number has there. -/
theorem getLsbD_eq_of_div_mod {w : Word} {i : Nat} {b : Bool} (h : w.toNat / 2 ^ i % 2 = b.toNat) :
    w.getLsbD i = b := by
  rw [← BitVec.testBit_toNat, Nat.testBit_eq_decide_div_mod_eq, h]
  cases b <;> rfl

/-- A field of a word is the number it has there. -/
theorem extractLsb'_eq_of_div_mod {w : Word} {i n x : Nat} (h : w.toNat / 2 ^ i % 2 ^ n = x) :
    w.extractLsb' i n = BitVec.ofNat n x := by
  refine BitVec.eq_of_toNat_eq ?_
  rw [BitVec.extractLsb'_toNat, Nat.shiftRight_eq_div_pow, BitVec.toNat_ofNat, ← h, Nat.mod_mod]

theorem statusWord_flags (s : State) :
    (statusWord s).getLsbD 0 = s.busy ∧ (statusWord s).getLsbD 1 = cfgFlag s ∧
      (statusWord s).getLsbD 2 = doneFlag s ∧ (statusWord s).getLsbD 3 = s.err ∧
      (statusWord s).getLsbD 4 = s.cdone := by
  have hword := statusWord_toNat s
  have hbusy := s.busy.toNat_le
  have hcfg := (cfgFlag s).toNat_le
  have hdone := (doneFlag s).toNat_le
  have herr := s.err.toNat_le
  have hcdone := s.cdone.toNat_le
  unfold flagsNat at hword
  refine ⟨?_, ?_, ?_, ?_, ?_⟩ <;> refine getLsbD_eq_of_div_mod ?_ <;> omega

theorem statusWord_fields (s : State) :
    (statusWord s).extractLsb' 5 3 = 0#3 ∧ (statusWord s).extractLsb' 8 3 = BitVec.ofNat 3 s.phase.code ∧
      (statusWord s).extractLsb' 11 5 = 0#5 ∧
      (statusWord s).extractLsb' 16 8 = BitVec.ofNat 8 s.errcode.code ∧
      (statusWord s).extractLsb' 24 40 = 0#40 := by
  have hword := statusWord_toNat s
  have hflags := flagsNat_lt s
  have hphase := s.phase.code_le
  have hcode := s.errcode.code_le
  refine ⟨?_, ?_, ?_, ?_, ?_⟩ <;> refine extractLsb'_eq_of_div_mod ?_ <;> omega

/-- Settles O52: the flags and fields of `statusWord`, with the numbers of PHASE and ERRCODE written out. -/
theorem statusWordAndInterrupt : Obligations.StatusWordAndInterrupt := by
  intro s
  obtain ⟨hbusy, hcfg, hdone, herr, hcdone⟩ := statusWord_flags s
  obtain ⟨hlow, hphase, hmid, hcode, hhigh⟩ := statusWord_fields s
  refine ⟨hbusy, ?_, ?_, herr, hcdone, hlow, hphase.trans ?_, hmid, hcode.trans ?_, hhigh, ?_, rfl⟩
  · rw [hcfg]; exact bne_iff_ne
  · rw [hdone]; exact beq_iff_eq
  · cases s.phase <;> rfl
  · cases s.errcode <;> rfl
  · exact Bool.and_eq_true_iff

/-! ### The address map -/

/-- A register stands at no offset but its own (20_memory.md R81). -/
theorem placeOf_eq_reg {off : Nat} {r : Reg} (h8 : off % 8 = 0) (h : placeOf off = some (.reg r)) :
    off = r.offset := by
  have hnodup : allRegs.Nodup := by decide
  unfold placeOf at h
  split at h
  · obtain ⟨r', hr', hr⟩ := Option.map_eq_some_iff.1 h
    obtain rfl := Place.reg.inj hr
    obtain ⟨hlt, rfl⟩ := List.getElem?_eq_some_iff.1 hr'
    rw [Reg.offset, hnodup.idxOf_getElem]
    omega
  · repeat' split at h
    all_goals simp at h

theorem placeOf_reserved {off : Nat} (h1 : 0xA0 ≤ off) (h2 : off < 0x20000) : placeOf off = none := by
  have hrow : off < bufBase .row := h2
  unfold placeOf
  rw [if_neg (by omega), if_pos hrow]

/-- The buffer windows begin at 0x20000 (20_memory.md R72, R73). -/
theorem le_of_placeOf_elem {off : Nat} {b : Buf} {t : Nat} (h : placeOf off = some (.elem b t)) :
    0x20000 ≤ off := by
  by_contra hlt
  by_cases hreg : off < 0xA0
  · rw [placeOf, if_pos hreg] at h
    obtain ⟨r, _, hr⟩ := Option.map_eq_some_iff.1 h
    cases hr
  · rw [placeOf_reserved (by omega) (by omega)] at h
    cases h

theorem wellShaped_iff (off width : Nat) : wellShaped off width = true ↔ width = 64 ∧ off % 8 = 0 := by
  simp [wellShaped]

theorem Reg.offset_lt (r : Reg) : r.offset < windowSize := by cases r <;> decide

/-! ### Host writes -/

/-- At a register's offset the host writes the register. -/
theorem hostWrite_reg (s : State) (v : Word) (r : Reg) : hostWrite s r.offset 64 v = regWrite s v r := by
  cases r <;> rfl

theorem hostWrite_elem {s : State} {off t : Nat} {b : Buf} (v : Word) (h8 : off % 8 = 0)
    (hp : placeOf off = some (.elem b t)) :
    hostWrite s off 64 v =
      if s.err = false ∧ s.phase ≠ .unconf ∧ t < s.nlen.toNat ∧ v.toNat < Q then
        some (setBuf b ((getBuf b s).set t (toResidue v.toNat)) s)
      else none := by
  unfold hostWrite
  rw [if_pos ((wellShaped_iff off 64).2 ⟨rfl, h8⟩), hp]
  cases he : s.err <;> simp [ifNoErr, reachable, he, and_assoc]

/-- Outside the buffer windows the host can write eight registers only (44_system.md R237). -/
theorem hostWrite_eq_none {s : State} {off : Nat} {v : Word} (h : off % 8 ≠ 0 ∨ off < 0x20000)
    (hoff : off ∉ [0x08, 0x10, 0x18, 0x20, 0x28, 0x38, 0x40, 0x48]) : hostWrite s off 64 v = none := by
  cases hw : hostWrite s off 64 v with
  | none => rfl
  | some t =>
    obtain ⟨_, h8, ⟨r, hr, hreg⟩ | ⟨b, i, hp, _⟩⟩ := hostWrite_cases s t off 64 v hw
    · have hat := placeOf_eq_reg h8 hr
      rcases regWrite_cases s t v r hreg with ⟨rfl, _⟩ | ⟨rfl, _⟩ | ⟨rfl, _⟩ |
        ⟨_, ⟨rfl, _⟩ | ⟨rfl, _⟩ | ⟨rfl, _⟩ | ⟨rfl, _⟩ | ⟨rfl, _⟩⟩ <;>
        exact absurd (by rw [hat]; decide) hoff
    · have hlow := le_of_placeOf_elem hp
      omega

theorem ifNoErr_eq (s t : State) : ifNoErr s t = if s.err = false then some t else none := by
  cases he : s.err <;> simp [ifNoErr, he]

theorem regWrite_cmd (s : State) (v : Word) :
    regWrite s v .cmd =
      if v.toNat < 2 ^ 32 ∧ (s.err = false ∨ v = 0x3F) then some (issue (v.setWidth 32) s) else none := by
  simp [regWrite]

theorem regWrite_status_zero (s : State) : regWrite s 0 .status = some s := rfl

theorem regWrite_status {s : State} {v : Word} (h : v ≠ 0) :
    regWrite s v .status = if v = 0x10 then some { s with cdone := false } else none := by
  simp only [regWrite, beq_iff_eq, if_neg h]

theorem regWrite_ctrl_zero (s : State) : regWrite s 0 .ctrl = some { s with ie := false } := rfl

theorem regWrite_ctrl {s : State} {v : Word} (h : v ≠ 0) :
    regWrite s v .ctrl = if v = 1 then some { s with ie := true } else none := by
  by_cases h1 : v = 1
  · subst h1; rfl
  · have hlarge : ¬ v.toNat < 2 := by bv_omega
    rw [regWrite, if_neg hlarge, if_neg h1]

theorem regWrite_ndim (s : State) (v : Word) :
    regWrite s v .ndim =
      if s.err = false ∧ v.toNat < 2 ^ 32 then some { s with ndim := v.setWidth 32 } else none := by
  simp only [regWrite, ifNoErr_eq, ← ite_and, and_comm]

/-- A 64-bit write that `hostWrite` refuses changes nothing but the answers (20_memory.md R79). -/
theorem step_write_refused {s : State} {off : Nat} {v : Word} {rest : List Move}
    (hb : s.busy = false) (hi : s.inputs = .write off 64 v :: rest) (hoff : off < windowSize)
    (hw : hostWrite { s with inputs := rest } off 64 v = none) :
    step s = .next (reply .error { s with inputs := rest }) := by
  rw [step_idle hb hi, access, if_neg (Nat.not_le.2 hoff), hw]

/-- A 64-bit write that `hostWrite` admits does what it says (20_memory.md R78). -/
theorem step_write_admitted {s t : State} {off : Nat} {v : Word} {rest : List Move}
    (hb : s.busy = false) (hi : s.inputs = .write off 64 v :: rest) (hoff : off < windowSize)
    (hw : hostWrite { s with inputs := rest } off 64 v = some t) :
    step s = .next (reply .ok t) := by
  rw [step_idle hb hi, access, if_neg (Nat.not_le.2 hoff), hw]

theorem step_write_ite {s t : State} {off : Nat} {v : Word} {rest : List Move} {C : Prop} [Decidable C]
    (hb : s.busy = false) (hi : s.inputs = .write off 64 v :: rest) (hoff : off < windowSize)
    (hw : hostWrite { s with inputs := rest } off 64 v = if C then some t else none) :
    if C then step s = .next (reply .ok t)
    else step s = .next (reply .error { s with inputs := rest }) := by
  split
  · next hC => exact step_write_admitted hb hi hoff (hw.trans (if_pos hC))
  · next hC => exact step_write_refused hb hi hoff (hw.trans (if_neg hC))

theorem step_write_reg {s t : State} {v : Word} {rest : List Move} {C : Prop} [Decidable C]
    (r : Reg) (hb : s.busy = false) (hi : s.inputs = .write r.offset 64 v :: rest)
    (hw : regWrite { s with inputs := rest } v r = if C then some t else none) :
    if C then step s = .next (reply .ok t)
    else step s = .next (reply .error { s with inputs := rest }) :=
  step_write_ite hb hi r.offset_lt ((hostWrite_reg _ v r).trans hw)

/-- Settles O53: each row of the table is what `regWrite` or `hostWrite_elem` says at its offset. -/
theorem hostWriteTable : Obligations.HostWriteTable := by
  intro s off v rest hb hi admitted refused
  refine ⟨?cmd, ?status, ?ctrl, ?opa, ?opb, ?ndim, ?target, ?mbase, ?row, ?psi, ?other⟩
  case cmd =>
    rintro rfl
    exact step_write_reg .cmd hb hi (regWrite_cmd _ v)
  case status =>
    rintro rfl
    by_cases hz : v = 0
    · subst hz
      exact step_write_admitted hb hi Reg.status.offset_lt (regWrite_status_zero _)
    · rw [if_neg hz]
      exact step_write_reg .status hb hi (regWrite_status hz)
  case ctrl =>
    rintro rfl
    by_cases hz : v = 0
    · subst hz
      exact step_write_admitted hb hi Reg.ctrl.offset_lt (regWrite_ctrl_zero _)
    · rw [if_neg hz]
      exact step_write_reg .ctrl hb hi (regWrite_ctrl hz)
  case opa =>
    rintro rfl
    exact step_write_reg .opa hb hi (ifNoErr_eq _ _)
  case opb =>
    rintro rfl
    exact step_write_reg .opb hb hi (ifNoErr_eq _ _)
  case ndim =>
    rintro rfl
    exact step_write_reg .ndim hb hi (regWrite_ndim _ v)
  case target =>
    rintro rfl
    exact step_write_reg .target hb hi (ifNoErr_eq _ _)
  case mbase =>
    rintro rfl
    exact step_write_reg .mbase hb hi (ifNoErr_eq _ _)
  case row =>
    rintro t ht rfl
    exact step_write_ite hb hi (by simp only [windowSize]; omega)
      (hostWrite_elem v (by omega) (placeOf_row t ht))
  case psi =>
    rintro t ht rfl
    exact step_write_ite hb hi (by simp only [windowSize]; omega)
      (hostWrite_elem v (by omega) (placeOf_psi t ht))
  case other =>
    exact fun hlt hplace hoff => step_write_refused hb hi hlt (hostWrite_eq_none hplace hoff)

/-! ### Host reads -/

theorem hostRead_reg (s : State) (r : Reg) : hostRead s r.offset 64 = regRead s r := by
  cases r <;> rfl

theorem hostRead_elem {s : State} {off t : Nat} {b : Buf} (h8 : off % 8 = 0)
    (hp : placeOf off = some (.elem b t)) :
    hostRead s off 64 =
      if s.phase ≠ .unconf ∧ t < s.nlen.toNat then some (residueWord (elem (getBuf b s) t)) else none := by
  rw [hostRead, if_pos ((wellShaped_iff off 64).2 ⟨rfl, h8⟩), hp]
  simp [reachable]

/-- CMD cannot be read, nor what is reserved, nor an offset that is not aligned (20_memory.md R78). -/
theorem hostRead_eq_none {s : State} {off : Nat}
    (h : off % 8 ≠ 0 ∨ 0xA0 ≤ off ∧ off < 0x20000 ∨ off = 0x08) : hostRead s off 64 = none := by
  by_cases h8 : off % 8 = 0
  · rcases h with hodd | ⟨h1, h2⟩ | rfl
    · exact absurd h8 hodd
    · rw [hostRead, if_pos ((wellShaped_iff off 64).2 ⟨rfl, h8⟩), placeOf_reserved h1 h2]
    · exact hostRead_reg s .cmd
  · rw [hostRead, if_neg fun hw => h8 ((wellShaped_iff off 64).1 hw).2]

/-- A 64-bit read that `hostRead` refuses changes nothing but the answers (20_memory.md R79). -/
theorem step_read_refused {s : State} {off : Nat} {rest : List Move}
    (hb : s.busy = false) (hi : s.inputs = .read off 64 :: rest) (hoff : off < windowSize)
    (hr : hostRead { s with inputs := rest } off 64 = none) :
    step s = .next (reply .error { s with inputs := rest }) := by
  rw [step_idle hb hi, access, if_neg (Nat.not_le.2 hoff), hr]

/-- A 64-bit read that `hostRead` admits is answered with its word (20_memory.md R78). -/
theorem step_read_admitted {s : State} {off : Nat} {w : Word} {rest : List Move}
    (hb : s.busy = false) (hi : s.inputs = .read off 64 :: rest) (hoff : off < windowSize)
    (hr : hostRead { s with inputs := rest } off 64 = some w) :
    step s = .next (reply (.data w) { s with inputs := rest }) := by
  rw [step_idle hb hi, access, if_neg (Nat.not_le.2 hoff), hr]

theorem step_read_ite {s : State} {off : Nat} {w : Word} {rest : List Move} {C : Prop} [Decidable C]
    (hb : s.busy = false) (hi : s.inputs = .read off 64 :: rest) (hoff : off < windowSize)
    (hr : hostRead { s with inputs := rest } off 64 = if C then some w else none) :
    if C then step s = .next (reply (.data w) { s with inputs := rest })
    else step s = .next (reply .error { s with inputs := rest }) := by
  split
  · next hC => exact step_read_admitted hb hi hoff (hr.trans (if_pos hC))
  · next hC => exact step_read_refused hb hi hoff (hr.trans (if_neg hC))

/-- The number a readable register holds. -/
theorem step_read_reg {s : State} {off x : Nat} {rest : List Move} (r : Reg)
    (hr : regRead { s with inputs := rest } r = some (BitVec.ofNat 64 x))
    (hb : s.busy = false) (hi : s.inputs = .read off 64 :: rest) (hoff : off = r.offset) :
    step s = .next (reply (.data (BitVec.ofNat 64 x)) { s with inputs := rest }) := by
  subst hoff
  exact step_read_admitted hb hi r.offset_lt ((hostRead_reg _ r).trans hr)

/-- A register as wide as a word or narrower reads as its number, zero above its width. -/
theorem some_setWidth (w : Nat) (x : BitVec w) : some (x.setWidth 64) = some (BitVec.ofNat 64 x.toNat) :=
  congrArg some (BitVec.ofNat_toNat 64 x).symm

theorem some_word (x : Word) : some x = some (BitVec.ofNat 64 x.toNat) := by simp

/-- Settles O54: each row of the table is what `regRead` or `hostRead_elem` says at its offset. -/
theorem hostReadTable : Obligations.HostReadTable := by
  intro s off rest hb hi gives refused
  refine ⟨step_read_reg .id rfl hb hi, step_read_reg .status (some_word _) hb hi,
    step_read_reg .ctrl ?ctrl hb hi, step_read_reg .opa (some_word _) hb hi,
    step_read_reg .opb (some_word _) hb hi, step_read_reg .res rfl hb hi,
    step_read_reg .ndim (some_setWidth _ _) hb hi, step_read_reg .target (some_word _) hb hi,
    step_read_reg .mbase (some_word _) hb hi, step_read_reg .ncfg (some_setWidth _ _) hb hi,
    step_read_reg .mcfg (some_word _) hb hi, step_read_reg .nlen (some_setWidth _ _) hb hi,
    step_read_reg .logn (some_setWidth _ _) hb hi, step_read_reg .kexp (some_word _) hb hi,
    step_read_reg .rowcnt (some_setWidth _ _) hb hi, step_read_reg .result rfl hb hi,
    step_read_reg .faultcmd (some_setWidth _ _) hb hi, step_read_reg .qmod rfl hb hi,
    step_read_reg .root rfl hb hi, ?row, ?psi, ?other⟩
  case ctrl =>
    rw [regRead]
    cases s.ie <;> rfl
  case row =>
    rintro t ht rfl
    exact step_read_ite hb hi (by simp only [windowSize]; omega)
      (hostRead_elem (by omega) (placeOf_row t ht))
  case psi =>
    rintro t ht rfl
    exact step_read_ite hb hi (by simp only [windowSize]; omega)
      (hostRead_elem (by omega) (placeOf_psi t ht))
  case other => exact fun hlt hplace => step_read_refused hb hi hlt (hostRead_eq_none hplace)

end Sys2Proof.Machine

/-! Proofs for 20_memory.md: the address map, which accesses are held or refused, what ERR locks out, and
the commands that read the matrix. A row the platform answers with data is encoded by bucket sums, and
`rowsFused` follows the state of COMPUTE from row to row (43_orchestrator.md R209, R210). -/

namespace Sys2Proof.Machine

/-! ### The window -/

/-- Settles O51: the registers by their twenty offsets, the rest by the laws of the address map. -/
theorem addressMapOfTheWindow : Obligations.AddressMapOfTheWindow :=
  ⟨by decide, fun _ hlow hhigh => placeOf_reserved hlow hhigh,
    fun t ht => ⟨placeOf_row t ht, placeOf_psi t ht⟩⟩

/-! ### Held accesses -/

/-- Where the next move is held, the block takes its own step and the move stays (20_memory.md R80). -/
theorem step_held {s : State} {m : Move} {rest : List Move} (hb : s.busy = true)
    (hi : s.inputs = m :: rest) (hwait : m ≠ .wait) (hheld : overtakes m = false) :
    step s = completion s := by
  refine step_turn hb ?_
  unfold blockTurn
  rw [hi]
  cases m with
  | wait => exact absurd rfl hwait
  | read | write | rst | place => exact if_neg (by rw [hheld]; decide)

/-- In the window only the 64-bit read of STATUS is not held (20_memory.md R80). -/
theorem overtakes_read_eq_false {off width : Nat} (hoff : off < windowSize)
    (h : ¬(off = 0x10 ∧ width = 64)) : overtakes (.read off width) = false := by
  simp only [overtakes, Bool.or_eq_false_iff, Bool.and_eq_false_iff, beq_eq_false_iff_ne,
    decide_eq_false_iff_not, Nat.not_le]
  exact ⟨by omega, hoff⟩

theorem overtakes_write_eq_false {off : Nat} (hoff : off < windowSize) (width : Nat) (v : Word) :
    overtakes (.write off width v) = false :=
  decide_eq_false (Nat.not_le.2 hoff)

/-! ### Refused accesses -/

theorem wellShaped_of_width_ne {off width : Nat} (h : width ≠ 64) : ¬ wellShaped off width = true :=
  fun hw => h ((wellShaped_iff off width).1 hw).1

/-- A read of another width is refused (20_memory.md R77). -/
theorem hostRead_of_width_ne (s : State) (off : Nat) {width : Nat} (h : width ≠ 64) :
    hostRead s off width = none := if_neg (wellShaped_of_width_ne h)

/-- A write of another width is refused (20_memory.md R77). -/
theorem hostWrite_of_width_ne (s : State) (off : Nat) {width : Nat} (v : Word) (h : width ≠ 64) :
    hostWrite s off width v = none := if_neg (wellShaped_of_width_ne h)

/-- An access of another width to the window is answered with an error and changes nothing else, whether
it reads or writes (20_memory.md R77, R79). -/
theorem access_of_width_ne (s : State) {m : Move} {off width : Nat} {v : Word}
    (hm : m = .read off width ∨ m = .write off width v) (hoff : off < windowSize) (h : width ≠ 64) :
    access m s = .next (reply .error s) := by
  rcases hm with rfl | rfl
  · rw [access, if_neg (Nat.not_le.2 hoff), hostRead_of_width_ne s off h]
  · rw [access, if_neg (Nat.not_le.2 hoff), hostWrite_of_width_ne s off v h]

/-- After an error response the host program has gone wrong (20_memory.md R79). -/
theorem hostWentWrong_reply_error (s : State) : hostWentWrong (reply .error s) :=
  List.mem_append_right _ (List.mem_singleton.2 rfl)

/-- Settles O55: the read of STATUS overtakes, every other access to the window is held, and one of
another width is refused once it is not. -/
theorem heldAndRefusedAccesses : Obligations.HeldAndRefusedAccesses := by
  refine ⟨?status, ?held, ?refused⟩
  case status =>
    intro s rest _ hi
    exact step_overtakes hi rfl
  case held =>
    rintro s off width v rest hb hoff (⟨hi, hne⟩ | hi)
    · exact step_held hb hi nofun (overtakes_read_eq_false hoff hne)
    · exact step_held hb hi nofun (overtakes_write_eq_false hoff width v)
  case refused =>
    intro s off width v rest hb hoff hwidth hi
    obtain ⟨m, hi, hm⟩ : ∃ m, s.inputs = m :: rest ∧ (m = .read off width ∨ m = .write off width v) := by
      rcases hi with hi | hi
      exacts [⟨_, hi, .inl rfl⟩, ⟨_, hi, .inr rfl⟩]
    exact ⟨_, (step_idle hb hi).trans (access_of_width_ne _ hm hoff hwidth),
      hostWentWrong_reply_error _, rfl⟩

/-! ### While ERR = 1 -/

/-- Of the registers, those a write reaches while ERR = 1, with the data admitted (20_memory.md R95). -/
theorem regWrite_isSome_of_err {s : State} (he : s.err = true) {v : Word} {r : Reg}
    (h : (regWrite s v r).isSome = true) :
    r = .cmd ∧ v = 0x3F ∨ r = .status ∧ (v = 0 ∨ v = 0x10) ∨ r = .ctrl ∧ v.toNat < 2 := by
  obtain ⟨t, ht⟩ := Option.isSome_iff_exists.1 h
  rcases regWrite_cases s t v r ht with
    ⟨hr, _, hok | hv, _⟩ | ⟨hr, ⟨hv, _⟩ | ⟨hv, _⟩⟩ | ⟨hr, hv, _⟩ | ⟨hok, _⟩
  · exact absurd (hok.symm.trans he) (by decide)
  · exact .inl ⟨hr, hv⟩
  · exact .inr (.inl ⟨hr, .inl hv⟩)
  · exact .inr (.inl ⟨hr, .inr hv⟩)
  · exact .inr (.inr ⟨hr, hv⟩)
  · exact absurd (hok.symm.trans he) (by decide)

/-- No buffer element is written while ERR = 1, so an admitted write is one to a register
(20_memory.md R95). -/
theorem hostWrite_isSome_of_err {s : State} (he : s.err = true) {off width : Nat} {v : Word}
    (h : (hostWrite s off width v).isSome = true) :
    width = 64 ∧ ∃ r : Reg, off = r.offset ∧ (regWrite s v r).isSome = true := by
  obtain ⟨t, ht⟩ := Option.isSome_iff_exists.1 h
  obtain ⟨hwidth, h8, ⟨r, hr, hreg⟩ | ⟨b, i, _, _, _, _, hok, _⟩⟩ := hostWrite_cases s t off width v ht
  · exact ⟨hwidth, r, placeOf_eq_reg h8 hr, by rw [hreg]; rfl⟩
  · exact absurd (hok.symm.trans he) (by decide)

/-- Whether a register can be read does not depend on the state (20_memory.md R78, R95). -/
theorem regRead_isSome_congr (s t : State) (r : Reg) : (regRead s r).isSome = (regRead t r).isSome := by
  cases r <;> rfl

/-- Which reads are admitted depends on PHASE and NLEN alone (20_memory.md R78, R82). -/
theorem hostRead_isSome_congr {s t : State} (hphase : t.phase = s.phase) (hnlen : t.nlen = s.nlen)
    (off width : Nat) : (hostRead s off width).isSome = (hostRead t off width).isSome := by
  have hreach : reachable t = reachable s := by
    funext i
    rw [reachable, reachable, hphase, hnlen]
  unfold hostRead
  split
  · cases placeOf off with
    | none => rfl
    | some p =>
      cases p with
      | reg r => exact regRead_isSome_congr s t r
      | elem b i =>
        simp only [hreach]
        split <;> rfl
  · rfl

/-- Settles O56: an admitted write is one to a register, and CMD, STATUS and CTRL are the registers ERR
leaves open; reads do not depend on the fault record. -/
theorem errorLocksOutWrites : Obligations.ErrorLocksOutWrites := by
  intro s he
  refine ⟨fun off width v => ⟨fun h => ?_, ?_⟩,
    hostRead_isSome_congr (t := { s with err := false, errcode := .none, faultcmd := 0 }) rfl rfl⟩
  · obtain ⟨hwidth, r, hoff, hreg⟩ := hostWrite_isSome_of_err he h
    refine ⟨hwidth, ?_⟩
    rcases regWrite_isSome_of_err he hreg with ⟨rfl, hv⟩ | ⟨rfl, hv⟩ | ⟨rfl, hv⟩
    · exact .inl ⟨hoff, hv⟩
    · exact .inr (.inl ⟨hoff, hv⟩)
    · exact .inr (.inr ⟨hoff, hv⟩)
  · rintro ⟨rfl, ⟨rfl, rfl⟩ | ⟨rfl, rfl | rfl⟩ | ⟨rfl, hv⟩⟩
    · have hword : (0x3F : Word).toNat < 2 ^ 32 := by simp
      rw [show 0x08 = Reg.cmd.offset from rfl, hostWrite_reg, regWrite_cmd, if_pos ⟨hword, .inr rfl⟩]
      rfl
    · rfl
    · rfl
    · rw [show 0x18 = Reg.ctrl.offset from rfl, hostWrite_reg, regWrite, if_pos hv]
      rfl

/-! ### A row of the matrix -/

/-- MatAddr as a number: it wraps at the end of the 64-bit address space (20_memory.md R84). -/
theorem matAddr_toNat (mcfg : Word) (n i j : Nat) :
    (matAddr mcfg n i j).toNat = (mcfg.toNat + i * n + j) % 2 ^ 64 := by
  rw [matAddr, BitVec.toNat_add, BitVec.toNat_ofNat, Nat.add_mod_mod, Nat.add_assoc]

theorem addMod_toResidue (a b : Nat) : addMod (toResidue a) (toResidue b) = toResidue (a + b) :=
  Fin.ext (Nat.add_mod a b Q).symm

/-- One entry changes the element of its own bucket and no other (43_orchestrator.md R197). -/
theorem elem_accumulate {buf : List Residue} {t : Nat} (ht : t < buf.length) (k : Nat) (e : Word) :
    elem (accumulate buf k e) t =
      addMod (elem buf t) (toResidue (if k = t then e.toNat % Q else 0)) := by
  rw [elem_eq_getElem _ t (by simpa using ht), elem_eq_getElem _ t ht]
  simp only [accumulate, List.getElem_modify]
  split
  · exact congrArg (addMod buf[t]) ((toResidue_eq_iff _ _).2 (Nat.mod_mod _ _).symm)
  · exact (Fin.ext (Nat.mod_eq_of_lt buf[t].isLt)).symm

/-- The buckets of the columns read so far hold the sums of their entries (43_orchestrator.md R200). -/
theorem elem_foldl_accumulate (idx : Nat → Nat) (M : Nat → Word) {N t : Nat} (ht : t < N) (k : Nat) :
    elem ((List.range k).foldl (fun buf j => accumulate buf (idx j) (M j)) (List.replicate N 0)) t =
      toResidue (∑ j ∈ Finset.range k, if idx j = t then (M j).toNat % Q else 0) := by
  induction k with
  | zero => exact elem_replicate N t 0 ht
  | succ k ih =>
    have hlen := foldl_range_keeps (fun b : List Residue => b.length = N)
      (fun b j => accumulate b (idx j) (M j)) k (fun b j _ hb => by simpa using hb)
      (List.replicate N 0) (by simp)
    rw [List.range_succ, List.foldl_append, List.foldl_cons, List.foldl_nil,
      elem_accumulate (hlen.symm ▸ ht), ih, addMod_toResidue, Finset.sum_range_succ]

/-- An encoded row holds the sums of the entries of each bucket (43_orchestrator.md R200). -/
theorem elem_encodeRow (i n : Nat) {N t : Nat} (M : Nat → Word) (ht : t < N) :
    elem (encodeRow i n N M) t = toResidue (bucketSum i n N M t) :=
  elem_foldl_accumulate (fun j => bucket i j n N) M ht n

/-- Settles O37: ENCROW leaves the row that `elem_encodeRow` describes. -/
theorem encrowCompletes : Obligations.EncrowCompletes := by
  intro s M hphase hreads
  have hallowed : phaseAllowed .encrow s.phase = true := by rw [hphase]; rfl
  exact ⟨matAddr_toNat _ _ _, encodeRow s.rowcnt.toNat s.ncfg.toNat s.nlen.toNat M,
    encodeRow_length _ _ _ _, fun t ht => elem_encodeRow _ _ M ht,
    (exec_eq _ s).trans (runCommand_done hallowed (encrowBody_of_rowReads hreads))⟩

/-! ### The commands of the pipeline, where they are done -/

/-- CONFIG, where its checks pass, constructs the computation (43_orchestrator.md R194). -/
theorem configBody_done {z : SizeSel} {s : State} (hdim : 0 ≤ dimension s)
    (hroot : rootOk s.root (sizeN (sizeSource z (dimension s).toNat s)) = true) :
    configBody z s = .done (construct (dimension s).toNat
      (sizeLog (sizeSource z (dimension s).toNat s)) s) := by
  rcases configBody_cases z s with ⟨hneg | hbad, _⟩ | ⟨_, _, hdone⟩
  · omega
  · exact absurd (hbad.symm.trans hroot) (by decide)
  · exact hdone

/-- FUSEROW, where its row is read as data, leaves the transformed row and the fusion step of PSI, and
counts the row (43_orchestrator.md R200, R201). -/
theorem fuserowBody_done {s : State} {M : Nat → Nat → Word} (hnlen : s.nlen.toNat = 2 ^ s.logn.toNat)
    (h : rowReads s s.mcfg s.ncfg.toNat s.rowcnt.toNat s.ncfg.toNat (M s.rowcnt.toNat)) :
    fuserowBody s = .done (advanceRow
      { s with
        row := nttSeq s.root s.logn.toNat .forward
          (encodeRow s.rowcnt.toNat s.ncfg.toNat s.nlen.toNat (M s.rowcnt.toNat))
        psi := fuseStep s.root s.rowcnt.toNat s.ncfg.toNat s.logn.toNat M s.psi
        matReads := s.matReads ++ rowAddrs s.mcfg s.ncfg.toNat s.rowcnt.toNat s.ncfg.toNat }) := by
  rw [fuserowBody, encrowBody_of_rowReads h, andThen_done, nttBody_eq .row .forward (encoded s _) hnlen,
    fuseStep, ← hnlen]
  rfl

/-- EXTRACT leaves the inverse FWHT in PSI and its element 0 in RESULT (43_orchestrator.md R208). -/
theorem extractBody_done {s : State} (hnlen : s.nlen.toNat = 2 ^ s.logn.toNat) :
    extractBody s = .done
      { s with
        psi := fwhtSeq s.logn.toNat .inverse s.psi
        result := elem (fwhtSeq s.logn.toNat .inverse s.psi) 0
        phase := .done
        trace := s.trace ++ [.phaseDone .extraction] } := by
  rw [extractBody, fwhtBody_eq .psi .inverse s hnlen]
  rfl

/-- Counting a row, and the end of the fusion after the last one, as one update (43_orchestrator.md R201). -/
theorem advanceRow_eq (s : State) :
    advanceRow s =
      { s with
        rowcnt := s.rowcnt + 1
        phase := if s.rowcnt + 1 = s.ncfg then .fused else s.phase
        trace := s.trace ++
          (.rowDone s.rowcnt :: if s.rowcnt + 1 = s.ncfg then [.phaseDone .fusion] else []) } := by
  rw [← advanceRow_phase, ← advanceRow_trace]
  unfold advanceRow
  split <;> rfl

/-! ### What construction leaves in the registers -/

/-- The lengths construction can choose fit NLEN (10_state.md R45, 43_orchestrator.md R191). -/
theorem toNat_ofNat_nlen {m : Nat} (hm : m ≤ 14) : (BitVec.ofNat 15 (2 ^ m)).toNat = 2 ^ m :=
  (BitVec.toNat_ofNat _ _).trans (Nat.mod_eq_of_lt (Nat.pow_lt_pow_right (by decide) (by omega)))

/-- Their logarithms fit LOGN (10_state.md R46). -/
theorem toNat_ofNat_logn {m : Nat} (hm : m ≤ 14) : (BitVec.ofNat 4 m).toNat = m :=
  (BitVec.toNat_ofNat _ _).trans (Nat.mod_eq_of_lt (by omega))

/-- A dimension fits NCFG, and a number of rows not above it fits ROWCNT (10_state.md R43, R49). -/
theorem toNat_ofNat_ncfg {n : Nat} (hn : n < 2 ^ 31) : (BitVec.ofNat 31 n).toNat = n :=
  (BitVec.toNat_ofNat _ _).trans (Nat.mod_eq_of_lt hn)

/-- The mutation exponent fits KEXP (10_state.md R47, 43_orchestrator.md R192). -/
theorem toNat_ofNat_kexp {n m : Nat} (hn : n < 2 ^ 31) (hm : m ≤ 14) :
    (BitVec.ofNat 64 (kExp n m)).toNat = kExp n m := by
  have hmul : n * m ≤ 2 ^ 31 * 14 := Nat.mul_le_mul hn.le hm
  have harg : kExp n m = (6 * (n * m) + 4) / 5 := by rw [← Nat.mul_assoc]; rfl
  rw [BitVec.toNat_ofNat, Nat.mod_eq_of_lt (by omega)]

/-! ### The fusion phase, row by row -/

/-- The state of a computation of dimension n and length 2^m that `s` has asked for, after `r` fused
rows, with `row` left in ROW (43_orchestrator.md R209, R210). -/
def rowsFused (M : Nat → Nat → Word) (n m r : Nat) (row : List Residue) (s : State) : State :=
  { constructRegs n m s with
    row := row
    psi := fusedRows s.root n m r M
    rowcnt := BitVec.ofNat 31 r
    phase := if r = n then .fused else .fusion
    trace := s.trace ++ (rowEvents r ++ if r = n then [.phaseDone .fusion] else [])
    matReads := s.matReads ++ matrixAddrs s.mbase n r }

/-- No row is fused after construction, and with n = 0 none is left (43_orchestrator.md R194). -/
theorem construct_eq_rowsFused (M : Nat → Nat → Word) (n m : Nat) (s : State) :
    construct n m s = rowsFused M n m 0 (List.replicate (2 ^ m) 0) s := by
  have hreads : s.matReads ++ matrixAddrs s.mbase n 0 = s.matReads := List.append_nil _
  by_cases hn : n = 0
  · subst hn
    rw [rowsFused, hreads]
    rfl
  · have hn' : ¬0 = n := fun h => hn h.symm
    rw [rowsFused, hreads, construct, if_neg hn, if_neg hn', if_neg hn',
      show s.trace ++ (rowEvents 0 ++ []) = s.trace from List.append_nil _]
    rfl

theorem rowEvents_succ (r : Nat) :
    rowEvents (r + 1) = rowEvents r ++ [.rowDone (BitVec.ofNat 31 r)] := by
  simp [rowEvents, List.range_succ]

theorem matrixAddrs_succ (base : Word) (n r : Nat) :
    matrixAddrs base n (r + 1) = matrixAddrs base n r ++ rowAddrs base n r n := by
  simp [matrixAddrs, List.range_succ]

theorem fusedRows_succ (g : Residue) (n m r : Nat) (M : Nat → Nat → Word) :
    fusedRows g n m (r + 1) M = fuseStep g r n m M (fusedRows g n m r M) := by
  simp [fusedRows, List.range_succ]

section
variable {s : State} {M : Nat → Nat → Word} {n m r : Nat}

/-- FUSEROW takes the computation from `r` fused rows to `r + 1`. -/
theorem fuserowBody_rowsFused (hn : n < 2 ^ 31) (hm : m ≤ 14) (hr : r < n)
    (hreads : rowReads s s.mbase n r n (M r)) (row : List Residue) :
    fuserowBody (rowsFused M n m r row s) = .done (rowsFused M n m (r + 1)
      (nttSeq s.root m .forward (encodeRow r n (2 ^ m) (M r))) s) := by
  have hncfg : (rowsFused M n m r row s).ncfg.toNat = n := toNat_ofNat_ncfg hn
  have hrowcnt : (rowsFused M n m r row s).rowcnt.toNat = r := toNat_ofNat_ncfg (hr.trans hn)
  have hnlen : (rowsFused M n m r row s).nlen.toNat = 2 ^ m := toNat_ofNat_nlen hm
  have hlogn : (rowsFused M n m r row s).logn.toNat = m := toNat_ofNat_logn hm
  have hdone := fuserowBody_done (s := rowsFused M n m r row s) (M := M) (by rw [hnlen, hlogn])
    (by rw [hncfg, hrowcnt]; exact rowReads_congr rfl rfl rfl hreads)
  rw [hncfg, hrowcnt, hnlen, hlogn] at hdone
  have hnext : BitVec.ofNat 31 (r + 1) = BitVec.ofNat 31 r + 1 := BitVec.ofNat_add _ _
  have hlast : BitVec.ofNat 31 r + 1 = BitVec.ofNat 31 n ↔ r + 1 = n := by
    rw [← hnext, ← BitVec.toNat_inj, toNat_ofNat_ncfg (by omega), toNat_ofNat_ncfg hn]
  rw [hdone]
  refine congrArg Body.done ?_
  have hphase : (rowsFused M n m r row s).phase = .fusion := if_neg (by omega)
  have htrace : (rowsFused M n m r row s).trace = s.trace ++ rowEvents r := by
    simp [rowsFused, Nat.ne_of_lt hr]
  rw [advanceRow_eq]
  simp only [hphase, htrace]
  simp only [rowsFused, constructRegs, hlast, hnext, rowEvents_succ, matrixAddrs_succ, fusedRows_succ,
    List.append_assoc, List.cons_append, List.nil_append]

/-- The loop of COMPUTE fuses the `k` rows left (43_orchestrator.md R210). -/
theorem fuseRows_rowsFused (hn : n < 2 ^ 31) (hm : m ≤ 14)
    (hreads : ∀ i < n, rowReads s s.mbase n i n (M i)) :
    ∀ (k r : Nat) (row : List Residue), row.length = 2 ^ m → r + k = n →
      ∃ last : List Residue, last.length = 2 ^ m ∧
        fuseRows k (rowsFused M n m r row s) = .done (rowsFused M n m n last s) := by
  intro k
  induction k with
  | zero =>
    rintro r row hrow rfl
    exact ⟨row, hrow, rfl⟩
  | succ k ih =>
    intro r row _ hk
    have hr : r < n := by omega
    obtain ⟨last, hlast, hrest⟩ := ih (r + 1)
      (nttSeq s.root m .forward (encodeRow r n (2 ^ m) (M r))) (nttSeq_length _ _ _ _) (by omega)
    exact ⟨last, hlast, by
      rw [fuseRows, fuserowBody_rowsFused hn hm hr (hreads r hr), andThen_done, hrest]⟩

/-- COMPUTE's loop after construction, from row 0 to the last. -/
theorem fuseRest_construct (hn : n < 2 ^ 31) (hm : m ≤ 14)
    (hreads : ∀ i < n, rowReads s s.mbase n i n (M i)) :
    ∃ row : List Residue, row.length = 2 ^ m ∧
      fuseRest (construct n m s) = .done (rowsFused M n m n row s) := by
  have hleft : (construct n m s).ncfg.toNat - (construct n m s).rowcnt.toNat = n := by
    rw [construct_ncfg_toNat m s hn, construct_rowcnt]
    rfl
  rw [fuseRest, hleft, construct_eq_rowsFused M]
  exact fuseRows_rowsFused hn hm hreads n 0 _ List.length_replicate (Nat.zero_add n)

/-- The state COMPUTE leaves before its completion ends, with `row` in ROW (43_orchestrator.md R209,
R210). -/
def pipelineDone (M : Nat → Nat → Word) (n src : Nat) (row : List Residue) (s : State) : State :=
  { s with
    ncfg := BitVec.ofNat 31 n
    mcfg := s.mbase
    nlen := BitVec.ofNat 15 (sizeN src)
    logn := BitVec.ofNat 4 (sizeLog src)
    kexp := BitVec.ofNat 64 (kExp n (sizeLog src))
    rowcnt := BitVec.ofNat 31 n
    row := row
    psi := pipelineSeq s.root n src M
    result := pipeline s.root n src M
    phase := .done
    trace := s.trace ++ computeEvents n
    matReads := s.matReads ++ matrixAddrs s.mbase n n }

/-- The phases after the fusion: MUTATE and EXTRACT end the pipeline (43_orchestrator.md R209). -/
theorem mutate_extract_rowsFused (hn : n < 2 ^ 31) (src : Nat) (row : List Residue) :
    (mutateBody (rowsFused M n (sizeLog src) n row s)).andThen extractBody =
      .done (pipelineDone M n src row s) := by
  have hm := sizeLog_le src
  have hnlen := toNat_ofNat_nlen hm
  have hlogn := toNat_ofNat_logn hm
  have hkexp := toNat_ofNat_kexp hn hm
  rw [mutateBody, andThen_done, extractBody_done (hnlen.trans (congrArg _ hlogn.symm))]
  refine congrArg Body.done ?_
  simp only [emit, rowsFused, constructRegs, pipelineDone, pipeline, pipelineSeq, fuseAll, fusedRows,
    computeEvents, sizeN, hlogn, hkexp, if_true, List.append_assoc, List.cons_append, List.nil_append]

end

/-- Settles O43: COMPUTE constructs, fuses the rows one by one and ends the pipeline; the registers hold
what construction wrote because every value fits its register. -/
theorem computeIsPipeline : Obligations.ComputeIsPipeline := by
  intro s z M hdim hroot hreads n src
  have hn : n < 2 ^ 31 := dimension_toNat_lt s
  have hm := sizeLog_le src
  obtain ⟨row, hrow, hrows⟩ := fuseRest_construct hn hm hreads
  have hcompute : computeBody z s = .done (pipelineDone M n src row s) := by
    rw [computeBody, configBody_done hdim hroot, andThen_done, hrows, andThen_done]
    exact mutate_extract_rowsFused hn src row
  exact ⟨pipelineDone M n src row s, (exec_eq _ s).trans (runCommand_done rfl hcompute),
    toNat_ofNat_ncfg hn, toNat_ofNat_nlen hm, toNat_ofNat_logn hm, toNat_ofNat_kexp hn hm, hrow, rfl⟩

end Sys2Proof.Machine

/-! Proofs for 30_encoding.md: decoding against encoding, the opcode table and the illegal words (R101
to R110). The decoder is taken apart once, by format (`decodeOpc_byFormat`); what a decoded command says
of the bits, and which fields are refused, are both read off from that. -/

namespace Sys2Proof
open Machine

/-! ### The bits of a word and its fields -/

/-- The bits of B, I and T in their places, as `Instr.fieldBits` has them (30_encoding.md R101). -/
def Fields.flagBits (f : Fields) : Nat := 0x100 * f.b.toNat + 0x200 * f.i.toNat + 0x400 * f.t.toNat

@[simp] theorem bufBit_bufOfBit (b : Bool) : bufBit (bufOfBit b) = 0x100 * b.toNat := by
  cases b <;> rfl

@[simp] theorem dirBit_dirOfBit (i : Bool) : dirBit (dirOfBit i) = 0x200 * i.toNat := by
  cases i <;> rfl

@[simp] theorem sizeBit_sizeOfBit (t : Bool) : sizeBit (sizeOfBit t) = 0x400 * t.toNat := by
  cases t <;> rfl

/-- A word without reserved bits is its opcode and its flags (30_encoding.md R101). -/
theorem toNat_eq_opc_add_flagBits {w : CmdWord} (hrsv : (splitWord w).rsv = 0#21) :
    w.toNat = (splitWord w).opc.toNat + (splitWord w).flagBits := by
  have hopc : (splitWord w).opc.toNat = w.toNat % 2 ^ 8 := by simp [splitWord]
  have hflag (k : Nat) : (w.getLsbD k).toNat = w.toNat / 2 ^ k % 2 := Nat.toNat_testBit _ _
  have hhigh : w.toNat / 2 ^ 11 % 2 ^ 21 = 0 := by
    simpa [splitWord, Nat.shiftRight_eq_div_pow] using congrArg BitVec.toNat hrsv
  have hlt := w.isLt
  rw [hopc]
  simp only [Fields.flagBits, splitWord, hflag]
  omega

/-! ### The decoder by format -/

/-- All that decoding of fields can answer: one of the four format decoders, where the opcode has that
format, for commands with this opcode and these bits; or a refusal, where the opcode has no format. -/
inductive DecodesByFormat (f : Fields) : Option Instr → Prop
  | c0 (i : Instr) (hopc : f.opc.toNat = i.opcode) (hfmt : formatOf f.opc = some .c0)
      (hbits : i.fieldBits = 0) : DecodesByFormat f (decodeC0 f i)
  | cb (mk : Buf → Instr) (hopc : ∀ b, f.opc.toNat = (mk b).opcode) (hfmt : formatOf f.opc = some .cb)
      (hbits : ∀ b, (mk b).fieldBits = bufBit b) : DecodesByFormat f (decodeCB f mk)
  | cbi (mk : Buf → Dir → Instr) (hopc : ∀ b d, f.opc.toNat = (mk b d).opcode)
      (hfmt : formatOf f.opc = some .cbi)
      (hbits : ∀ b d, (mk b d).fieldBits = bufBit b + dirBit d) : DecodesByFormat f (decodeCBI f mk)
  | ct (mk : SizeSel → Instr) (hopc : ∀ t, f.opc.toNat = (mk t).opcode)
      (hfmt : formatOf f.opc = some .ct)
      (hbits : ∀ t, (mk t).fieldBits = sizeBit t) : DecodesByFormat f (decodeCT f mk)
  | unassigned (hfmt : formatOf f.opc = none) : DecodesByFormat f none

theorem decodeOpc_byFormat (f : Fields) : DecodesByFormat f (decodeOpc f) := by
  unfold decodeOpc
  split
  case h_1 h => exact .c0 .nop h (by simp [formatOf, h]) rfl
  case h_2 h => exact .c0 .modpow h (by simp [formatOf, h]) rfl
  case h_3 h => exact .c0 .modinv h (by simp [formatOf, h]) rfl
  case h_4 h => exact .cb .bitrev (fun _ => h) (by simp [formatOf, h]) fun _ => rfl
  case h_5 h => exact .cbi .nttbf (fun _ _ => h) (by simp [formatOf, h]) fun _ _ => rfl
  case h_6 h => exact .cbi .ntt (fun _ _ => h) (by simp [formatOf, h]) fun _ _ => rfl
  case h_7 h => exact .cbi .fwht (fun _ _ => h) (by simp [formatOf, h]) fun _ _ => rfl
  case h_8 h => exact .cb .scale (fun _ => h) (by simp [formatOf, h]) fun _ => rfl
  case h_9 h => exact .c0 .pmul h (by simp [formatOf, h]) rfl
  case h_10 h => exact .ct .config (fun _ => h) (by simp [formatOf, h]) fun _ => rfl
  case h_11 h => exact .c0 .encrow h (by simp [formatOf, h]) rfl
  case h_12 h => exact .c0 .fuserow h (by simp [formatOf, h]) rfl
  case h_13 h => exact .c0 .mutate h (by simp [formatOf, h]) rfl
  case h_14 h => exact .c0 .extract h (by simp [formatOf, h]) rfl
  case h_15 h => exact .ct .compute (fun _ => h) (by simp [formatOf, h]) fun _ => rfl
  case h_16 h => exact .c0 .sreset h (by simp [formatOf, h]) rfl
  case h_17 => exact .unassigned (by simp_all [formatOf])

/-! ### Decoding and encoding -/

/-- A decoded command has the opcode and the flags it was decoded from. -/
theorem fields_of_decodeOpc {f : Fields} {i : Instr} (h : decodeOpc f = some i) :
    f.opc.toNat = i.opcode ∧ f.flagBits = i.fieldBits := by
  have hby := decodeOpc_byFormat f
  rw [h] at hby
  generalize hr : some i = r at hby
  cases hby with
  | c0 j hopc _ hbits =>
    obtain ⟨⟨hb, hi, ht⟩, rfl⟩ : (f.b = false ∧ f.i = false ∧ f.t = false) ∧ i = j := by
      simpa [decodeC0, and_assoc] using hr
    exact ⟨hopc, by simp [Fields.flagBits, hbits, hb, hi, ht]⟩
  | cb mk hopc _ hbits =>
    obtain ⟨⟨hi, ht⟩, rfl⟩ : (f.i = false ∧ f.t = false) ∧ i = mk (bufOfBit f.b) := by
      simpa [decodeCB] using hr
    exact ⟨hopc _, by simp [Fields.flagBits, hbits, hi, ht]⟩
  | cbi mk hopc _ hbits =>
    obtain ⟨ht, rfl⟩ : f.t = false ∧ i = mk (bufOfBit f.b) (dirOfBit f.i) := by
      simpa [decodeCBI] using hr
    exact ⟨hopc _ _, by simp [Fields.flagBits, hbits, ht]⟩
  | ct mk hopc _ hbits =>
    obtain ⟨⟨hb, hi⟩, rfl⟩ : (f.b = false ∧ f.i = false) ∧ i = mk (sizeOfBit f.t) := by
      simpa [decodeCT] using hr
    exact ⟨hopc _, by simp [Fields.flagBits, hbits, hb, hi]⟩
  | unassigned => cases hr

theorem decode_eq_some_iff {w : CmdWord} {i : Instr} :
    decode w = some i ↔ (splitWord w).rsv = 0#21 ∧ decodeOpc (splitWord w) = some i := by
  simp [decode]

/-- The 29 commands with their operands, in the order of their words within a row of the table. -/
def allCommands : List Instr :=
  [.nop, .modpow, .modinv, .bitrev .row, .bitrev .psi,
    .nttbf .row .forward, .nttbf .psi .forward, .nttbf .row .inverse, .nttbf .psi .inverse,
    .ntt .row .forward, .ntt .psi .forward, .ntt .row .inverse, .ntt .psi .inverse,
    .fwht .row .forward, .fwht .psi .forward, .fwht .row .inverse, .fwht .psi .inverse,
    .scale .row, .scale .psi, .pmul, .config .square, .config .target, .encrow, .fuserow, .mutate,
    .extract, .compute .square, .compute .target, .sreset]

theorem mem_allCommands (i : Instr) : i ∈ allCommands := by
  cases i with
  | bitrev b | scale b => cases b <;> decide
  | nttbf b d | ntt b d | fwht b d => cases b <;> cases d <;> decide
  | config t | compute t => cases t <;> decide
  | _ => decide

theorem decode_encode (i : Instr) : decode (encode i) = some i :=
  have hall : ∀ j ∈ allCommands, decode (encode j) = some j := by decide
  hall i (mem_allCommands i)

theorem eq_encode_of_decode {w : CmdWord} {i : Instr} (h : decode w = some i) : w = encode i := by
  obtain ⟨hrsv, hdec⟩ := decode_eq_some_iff.1 h
  obtain ⟨hopc, hbits⟩ := fields_of_decodeOpc hdec
  have hw := toNat_eq_opc_add_flagBits hrsv
  calc w = BitVec.ofNat 32 w.toNat := by simp
    _ = encode i := by rw [hw, hopc, hbits, encode]

/-- Settles O1: the bits a command was decoded from are the bits of its word, and no others are set. -/
theorem decodeIsExactlyEncode : Obligations.DecodeIsExactlyEncode := fun _ i =>
  ⟨eq_encode_of_decode, fun h => h ▸ decode_encode i⟩

/-! ### Illegal words -/

theorem decodeOpc_eq_none_iff (f : Fields) :
    decodeOpc f = none ↔ f.opcAssigned = false ∨ f.unusedZero = false := by
  have hby := decodeOpc_byFormat f
  generalize decodeOpc f = r at hby ⊢
  cases hby with
  | c0 i _ hfmt => simp [decodeC0, Fields.opcAssigned, Fields.unusedZero, hfmt, or_assoc]
  | cb mk _ hfmt => simp [decodeCB, Fields.opcAssigned, Fields.unusedZero, hfmt]
  | cbi mk _ hfmt => simp [decodeCBI, Fields.opcAssigned, Fields.unusedZero, hfmt]
  | ct mk _ hfmt => simp [decodeCT, Fields.opcAssigned, Fields.unusedZero, hfmt]
  | unassigned hfmt => simp [Fields.opcAssigned, hfmt]

/-- Settles O3: each format's decoder refuses exactly the flags that are none of its fields. -/
theorem illegalWordIffIllFormedFields : Obligations.IllegalWordIffIllFormedFields := by
  intro w
  have hopc := decodeOpc_eq_none_iff (splitWord w)
  by_cases hrsv : (splitWord w).rsv = 0#21
  · simp [decode, Fields.rsvZero, hrsv, hopc]
  · simp [decode, Fields.rsvZero, hrsv]

/-! ### The opcode table -/

/-- A mask with one bit cleared leaves that bit open (30_encoding.md R107). -/
theorem and_not_twoPow_eq_iff {n k : Nat} {w p : BitVec n} (hk : k < n) (hp : p.getLsbD k = false) :
    w &&& ~~~BitVec.twoPow n k = p ↔ w = p ∨ w = p ||| BitVec.twoPow n k := by
  constructor
  · rintro rfl
    cases hw : w.getLsbD k
    case' false => left
    case' true => right
    all_goals
      ext j hj
      by_cases hjk : k = j <;> simp_all [← BitVec.getLsbD_eq_getElem]
  · rintro (rfl | rfl)
    all_goals
      ext j hj
      by_cases hjk : k = j <;> simp_all [← BitVec.getLsbD_eq_getElem]

theorem and_maskC0_eq_iff {w p : CmdWord} : w &&& 0xFFFFFFFF = p ↔ w ∈ [p] := by
  rw [show (0xFFFFFFFF : CmdWord) = BitVec.allOnes 32 from rfl, BitVec.and_allOnes, List.mem_singleton]

theorem and_maskCB_eq_iff {w p : CmdWord} (hb : p.getLsbD 8 = false) :
    w &&& 0xFFFFFEFF = p ↔ w ∈ [p, p ||| 0x100] := by
  rw [List.mem_pair]
  exact and_not_twoPow_eq_iff (k := 8) (by decide) hb

theorem and_maskCT_eq_iff {w p : CmdWord} (ht : p.getLsbD 10 = false) :
    w &&& 0xFFFFFBFF = p ↔ w ∈ [p, p ||| 0x400] := by
  rw [List.mem_pair]
  exact and_not_twoPow_eq_iff (k := 10) (by decide) ht

/-- B is left open within a word whose I is left open. -/
theorem and_maskCBI_eq_iff {w p : CmdWord} (hb : p.getLsbD 8 = false) (hi : p.getLsbD 9 = false) :
    w &&& 0xFFFFFCFF = p ↔ w ∈ [p, p ||| 0x100, p ||| 0x200, p ||| 0x300] := by
  have hmask : w &&& 0xFFFFFCFF = (w &&& 0xFFFFFEFF) &&& ~~~BitVec.twoPow 32 9 := by
    rw [BitVec.and_assoc]; rfl
  have hboth : p ||| BitVec.twoPow 32 9 ||| 0x100 = p ||| 0x300 := by rw [BitVec.or_assoc]; rfl
  have hb' : (p ||| BitVec.twoPow 32 9).getLsbD 8 = false := by
    rw [BitVec.getLsbD_or, hb]; rfl
  rw [hmask, and_not_twoPow_eq_iff (by decide) hi, and_maskCB_eq_iff hb, and_maskCB_eq_iff hb', hboth,
    ← List.mem_append]
  rfl

/-- Each row's mask leaves open the fields of one format, and its words are the pattern with every
value of these (30_encoding.md R102, R107). -/
theorem opcodeTable_byFormat : ∀ row ∈ opcodeTable,
    (row.mask = 0xFFFFFFFF ∧ row.words = [row.pattern]) ∨
    (row.mask = 0xFFFFFEFF ∧ row.words = [row.pattern, row.pattern ||| 0x100] ∧
      row.pattern.getLsbD 8 = false) ∨
    (row.mask = 0xFFFFFCFF ∧
      row.words = [row.pattern, row.pattern ||| 0x100, row.pattern ||| 0x200, row.pattern ||| 0x300] ∧
      row.pattern.getLsbD 8 = false ∧ row.pattern.getLsbD 9 = false) ∨
    (row.mask = 0xFFFFFBFF ∧ row.words = [row.pattern, row.pattern ||| 0x400] ∧
      row.pattern.getLsbD 10 = false) := by
  decide

theorem and_mask_eq_pattern_iff {row : TableRow} (hrow : row ∈ opcodeTable) (w : CmdWord) :
    w &&& row.mask = row.pattern ↔ w ∈ row.words := by
  obtain ⟨hmask, hwords⟩ | ⟨hmask, hwords, hb⟩ | ⟨hmask, hwords, hb, hi⟩ | ⟨hmask, hwords, ht⟩ :=
    opcodeTable_byFormat row hrow
  all_goals rw [hmask, hwords]
  · exact and_maskC0_eq_iff
  · exact and_maskCB_eq_iff hb
  · exact and_maskCBI_eq_iff hb hi
  · exact and_maskCT_eq_iff ht

theorem words_eq_map_encode : ∀ row ∈ opcodeTable,
    row.words = (allCommands.filter fun i => i.mnemonic = row.mnemonic).map encode := by
  decide

theorem mnemonic_mem_opcodeTable (i : Instr) : i.mnemonic ∈ opcodeTable.map TableRow.mnemonic := by
  cases i <;> simp [opcodeTable, Instr.mnemonic]

/-- By O1 the words of a row, which are those of its commands, are the words that decode to these. -/
theorem mem_words_iff {row : TableRow} (hrow : row ∈ opcodeTable) (w : CmdWord) :
    w ∈ row.words ↔ ∃ i, decode w = some i ∧ i.mnemonic = row.mnemonic := by
  simp [words_eq_map_encode row hrow, mem_allCommands, decodeIsExactlyEncode w, and_comm, eq_comm]

/-- A word that decodes is a legal word of the row with its command's mnemonic. -/
theorem exists_row_of_decode {w : CmdWord} {i : Instr} (h : decode w = some i) :
    ∃ row ∈ opcodeTable, w ∈ row.words ∧ i.mnemonic = row.mnemonic := by
  obtain ⟨row, hrow, hname⟩ := List.mem_map.1 (mnemonic_mem_opcodeTable i)
  exact ⟨row, hrow, (mem_words_iff hrow w).2 ⟨i, h, hname.symm⟩, hname.symm⟩

/-- Settles O2: a row's mask leaves open exactly the fields of its format, and its words are those of
the commands with its mnemonic. -/
theorem opcodeTableMatchesDecoder : Obligations.OpcodeTableMatchesDecoder :=
  ⟨fun _ hrow w => ⟨and_mask_eq_pattern_iff hrow w, mem_words_iff hrow w⟩,
    fun _ _ => exists_row_of_decode,
    rfl, rfl, by decide⟩

/-! ### Words of the spec -/

/-- Settles O4: ten of the words are those of their commands, and SRESET has no field B. -/
theorem decodesWordsOfTheSpec : Obligations.DecodesWordsOfTheSpec :=
  ⟨decode_encode .nop, decode_encode .modpow, decode_encode (.bitrev .psi),
    decode_encode (.nttbf .row .inverse), decode_encode (.ntt .psi .forward),
    decode_encode (.fwht .psi .inverse), decode_encode (.config .target), decode_encode .fuserow,
    decode_encode (.compute .square), decode_encode .sreset,
    (illegalWordIffIllFormedFields 0x13F).2 (.inr (.inr rfl))⟩

end Sys2Proof

/-! Proofs for 40_modular_arithmetic.md. Every residue operation is that of the naturals under
`toResidue`, so each value is settled among the naturals modulo Q. That Q is prime, on which the inverse
rests, follows from the powers of 3 (Lucas), which the model's own ModPow computes. -/

namespace Sys2Proof.Machine

/-! ### The three residue operations -/

theorem mulMod_toResidue (a b : Nat) : mulMod (toResidue a) (toResidue b) = toResidue (a * b) :=
  Fin.ext (Nat.mul_mod a b Q).symm

/-- Adding Q keeps the difference from going below 0 and does not change its residue. -/
theorem subMod_val_int (u v : Residue) : ((subMod u v).val : Int) = ((u.val : Int) - v.val) % Q := by
  have hv : v.val ≤ u.val + Q := by omega
  calc ((subMod u v).val : Int)
      = ((u.val : Int) + Q - v.val) % Q := by
        rw [subMod_val, Int.natCast_mod, Nat.cast_sub hv, Nat.cast_add]
    _ = ((u.val : Int) - v.val) % Q := by rw [add_sub_right_comm, Int.add_emod_right]

/-- Settles O14: only SubMod differs in form from the rule, by the Q it adds. -/
theorem residueOperations : Obligations.ResidueOperations := fun u v =>
  ⟨addMod_val u v, subMod_val_int u v, mulMod_val u v⟩

/-! ### Binary exponentiation -/

/-- The accumulator takes in the running square where the exponent's lowest bit is set. -/
theorem accumulator_step (e r x : Nat) :
    (if e % 2 = 1 then mulMod (toResidue r) (toResidue x) else toResidue r) =
      toResidue (r * x ^ (e % 2)) := by
  rcases Nat.mod_two_eq_zero_or_one e with h | h <;> simp [h, mulMod_toResidue]

/-- The loop's invariant: the accumulator times the running square to the remaining exponent is the
result (40_modular_arithmetic.md R134). -/
theorem powLoop_toResidue (fuel e r x : Nat) (he : e < 2 ^ fuel) :
    powLoop fuel e (toResidue r) (toResidue x) = toResidue (r * x ^ e) := by
  induction fuel generalizing e r x with
  | zero =>
    obtain rfl : e = 0 := by omega
    simp [powLoop]
  | succ fuel ih =>
    by_cases h0 : e = 0
    · simp [powLoop, h0]
    · have hbits : r * x ^ (e % 2) * (x * x) ^ (e / 2) = r * x ^ e := by
        rw [mul_assoc, ← pow_two, ← pow_mul, ← pow_add, Nat.mod_add_div]
      rw [powLoop_step fuel e _ _ h0, accumulator_step, mulMod_toResidue, ih _ _ _ (by omega), hbits]

/-- ModPow is the power (40_modular_arithmetic.md R133). -/
theorem modPow_eq (b e : Nat) : modPow b e = toResidue (b ^ e) := by
  rw [modPow, powLoop_toResidue _ _ _ _ Nat.lt_log2_self, one_mul]

/-- ModPow depends on its base modulo Q only. -/
theorem modPow_eq_mod (b e : Nat) : modPow b e = toResidue ((b % Q) ^ e) :=
  (modPow_eq b e).trans ((toResidue_eq_iff _ _).2 (Nat.pow_mod b e Q))

theorem modPow_one (b : Nat) : modPow b 1 = toResidue b := by rw [modPow_eq, pow_one]

theorem modPow_of_dvd {b e : Nat} (he : 1 ≤ e) (hb : b % Q = 0) : modPow b e = 0 := by
  rw [modPow_eq_mod, hb, zero_pow (by omega)]
  rfl

/-- Settles O15, by the loop's invariant. -/
theorem binaryExponentiationIsPower : Obligations.BinaryExponentiationIsPower :=
  ⟨fun b e => congrArg Fin.val (modPow_eq_mod b e),
    fun b => ⟨congrArg Fin.val (modPow_zero b), congrArg Fin.val (modPow_one b)⟩,
    fun _ _ he hb => congrArg Fin.val (modPow_of_dvd he hb)⟩

/-- Settles O16: MODPOW runs in every phase and is done with ModPow's value, the power, in RES. -/
theorem modpowCompletes : Obligations.ModpowCompletes := fun s => by
  rw [← modPow_eq_mod]
  exact (exec_eq .modpow s).trans (runCommand_done rfl rfl)

/-! ### Q is prime -/

/-- A power is 1 in the integers modulo Q where ModPow computes 1. -/
theorem natCast_pow_eq_one_iff (b e : Nat) : (b : ZMod Q) ^ e = 1 ↔ modPow b e = 1 := by
  rw [modPow_eq, ← Nat.cast_pow, ← Nat.cast_one, ZMod.natCast_eq_natCast_iff']
  exact (toResidue_eq_iff _ 1).symm

/-- Q - 1 = 2^23 * 7 * 17 (00_scope.md R9). -/
theorem eq_of_prime_dvd_pred_Q {p : Nat} (hp : p.Prime) (hdvd : p ∣ Q - 1) :
    p = 2 ∨ p = 7 ∨ p = 17 := by
  have hfactor : Q - 1 = 2 ^ 23 * 7 * 17 := by norm_num
  rw [hfactor, hp.dvd_mul, hp.dvd_mul] at hdvd
  obtain (h2 | h7) | h17 := hdvd
  · exact .inl ((Nat.prime_dvd_prime_iff_eq hp Nat.prime_two).1 (hp.dvd_of_dvd_pow h2))
  · exact .inr (.inl ((Nat.prime_dvd_prime_iff_eq hp (by norm_num)).1 h7))
  · exact .inr (.inr ((Nat.prime_dvd_prime_iff_eq hp (by norm_num)).1 h17))

/-- 3 has order Q - 1 modulo Q (00_scope.md R10), so Q is prime. -/
theorem prime_Q : Nat.Prime Q := by
  refine lucas_primality Q ((3 : Nat) : ZMod Q) ?_ fun p hp hdvd => ?_
  · exact (natCast_pow_eq_one_iff 3 _).2 (by decide +kernel)
  · rw [Ne, natCast_pow_eq_one_iff]
    obtain rfl | rfl | rfl := eq_of_prime_dvd_pred_Q hp hdvd <;> decide +kernel

theorem coprime_Q {a : Nat} (ha : a % Q ≠ 0) : Nat.Coprime a Q :=
  ((Nat.Prime.coprime_iff_not_dvd prime_Q).2 fun h => ha (Nat.mod_eq_zero_of_dvd h)).symm

/-! ### The inverse -/

/-- ModInv inverts what Q does not divide, by Fermat's little theorem (40_modular_arithmetic.md R139). -/
theorem mul_modInv {a : Nat} (ha : a % Q ≠ 0) : a * (modInv a).val % Q = 1 := by
  have hexp : Nat.totient Q = (Q - 2) + 1 := Nat.totient_prime prime_Q
  calc a * (modInv a).val % Q
      = a * (a ^ (Q - 2) % Q) % Q := by rw [modInv, modPow_eq, toResidue_val]
    _ = a ^ Nat.totient Q % Q := by rw [Nat.mul_mod_mod, hexp, pow_succ']
    _ = 1 := Nat.ModEq.pow_totient (coprime_Q ha)

theorem modInv_of_dvd {a : Nat} (ha : a % Q = 0) : modInv a = 0 := modPow_of_dvd (by decide) ha

theorem modInv_mod_ne_zero {a : Nat} (ha : a % Q ≠ 0) : (modInv a).val % Q ≠ 0 := fun h => by
  have hinv := mul_modInv ha
  rw [Nat.mul_mod, h] at hinv
  simp at hinv

/-- The inverse of the inverse: a and ModInv(ModInv(a)) both invert ModInv(a), which cancels. -/
theorem modInv_modInv {a : Nat} (ha : a % Q ≠ 0) : (modInv (modInv a).val).val = a % Q := by
  have hr := modInv_mod_ne_zero ha
  have hsame : (modInv a).val * (modInv (modInv a).val).val ≡ (modInv a).val * a [MOD Q] :=
    (mul_modInv hr).trans (by rw [Nat.mul_comm, mul_modInv ha])
  have hcancel := Nat.ModEq.cancel_left_of_coprime (coprime_Q hr).symm hsame
  rwa [Nat.ModEq, Nat.mod_eq_of_lt (modInv (modInv a).val).isLt] at hcancel

/-- Settles O17, by `mul_modInv` and `modInv_modInv`. -/
theorem fermatInverse : Obligations.FermatInverse := by
  refine ⟨fun a h1 hQ => ?_, fun a ha => modInv_modInv ha⟩
  have ha : a % Q ≠ 0 := by rw [Nat.mod_eq_of_lt hQ]; omega
  rw [modPow_one, ← toResidue_of_val (modInv a), mulMod_toResidue]
  exact Fin.ext (mul_modInv ha)

theorem modinvBody_done {s : State} (h : s.opa.toNat % Q ≠ 0) :
    modinvBody s = .done { s with res := modInv s.opa.toNat } := if_neg h

theorem modinvBody_raise {s : State} (h : s.opa.toNat % Q = 0) :
    modinvBody s = .raise .invzero { s with res := 0 } := by
  rw [← modInv_of_dvd h]
  exact if_pos h

/-- Settles O18: MODINV runs in every phase, and its pseudocode ends as `modinvBody_done` and
`modinvBody_raise` say. -/
theorem modinvCompletesOrFaults : Obligations.ModinvCompletesOrFaults := fun s =>
  ⟨fun h => ⟨modInv s.opa.toNat, mul_modInv h,
      (exec_eq .modinv s).trans (runCommand_done rfl (modinvBody_done h))⟩,
    fun h => (exec_eq .modinv s).trans (runCommand_raise rfl (modinvBody_raise h))⟩

/-! ### Division by N -/

theorem elem_scaleSeq (N : Nat) {x : List Residue} {t : Nat} (ht : t < x.length) :
    elem (scaleSeq N x) t = mulMod (elem x t) (modInv N) := by
  rw [elem_eq_getElem _ t (by simpa using ht), elem_eq_getElem _ t ht]
  exact List.getElem_map _

/-- Multiplying with ModInv(N) is dividing by N (40_modular_arithmetic.md R132). -/
theorem mulMod_modInv_mul {N : Nat} (hN : N % Q ≠ 0) (e : Residue) :
    (mulMod e (modInv N)).val * N % Q = e.val := by
  rw [mulMod_val, Nat.mod_mul_mod, Nat.mul_assoc, Nat.mul_comm (modInv N).val, Nat.mul_mod,
    mul_modInv hN, Nat.mul_one, Nat.mod_mod, Nat.mod_eq_of_lt e.isLt]

/-- A power of two that NLEN holds is below Q. -/
theorem nlen_mod_ne_zero {s : State} (h : s.nlen.toNat = 2 ^ s.logn.toNat) : s.nlen.toNat % Q ≠ 0 := by
  have hpos : 0 < s.nlen.toNat := h ▸ Nat.two_pow_pos _
  have hlt : s.nlen.toNat < Q := s.nlen.isLt.trans (by decide)
  rw [Nat.mod_eq_of_lt hlt]
  omega

/-- Settles O24: a configured phase allows SCALE, whose new elements are those of `elem_scaleSeq`. -/
theorem scaleCompletes : Obligations.ScaleCompletes := by
  intro s b hphase hnlen
  have hallowed : phaseAllowed (.scale b) s.phase = true := by simpa [phaseAllowed] using hphase
  refine ⟨scaleSeq s.nlen.toNat (getBuf b s), scaleSeq_length _ _, fun t ht => ?_,
    (exec_eq _ s).trans (runCommand_done hallowed rfl)⟩
  rw [elem_scaleSeq _ (scaleSeq_length _ _ ▸ ht)]
  exact mulMod_modInv_mul (nlen_mod_ne_zero hnlen) _

end Sys2Proof.Machine

/-! Proofs for 41_ntt.md. The residues are taken to the field `ZMod Q`, where a stage's butterflies are
one step of the radix-2 split of a Fourier sum: after t stages each block of 2^t elements holds the Fourier
sums of one strided part of the input (`elem_firstStages`). The closed form is the last of these; the round
trip and the convolution follow from it by the orthogonality of the powers of a primitive root. -/

namespace Sys2Proof.Machine

/-! ### Bit reversal -/

theorem rev_lt (m i : Nat) : rev m i < 2 ^ m := by
  induction m generalizing i with
  | zero => exact Nat.one_pos
  | succ m ih =>
    have hrest := ih (i / 2)
    rcases Nat.mod_two_eq_zero_or_one i with h | h <;> rw [rev, h, pow_succ] <;> omega

theorem rev_two_mul (m n : Nat) : rev (m + 1) (2 * n) = rev m n := by simp [rev]

theorem rev_two_mul_add_one (m n : Nat) : rev (m + 1) (2 * n + 1) = 2 ^ m + rev m n := by
  rw [rev, show (2 * n + 1) % 2 = 1 by omega, show (2 * n + 1) / 2 = n by omega, one_mul]

/-- The lowest bit becomes the highest, and the others are reversed below it. -/
theorem testBit_rev (m i b : Nat) (hb : b < m) : (rev m i).testBit b = i.testBit (m - 1 - b) := by
  induction m generalizing i b with
  | zero => omega
  | succ m ih =>
    rw [rev, Nat.mul_comm, Nat.testBit_two_pow_mul_add _ (rev_lt m _)]
    by_cases hlow : b < m
    · rw [if_pos hlow, ih _ _ hlow, show m + 1 - 1 - b = m - 1 - b + 1 by omega, Nat.testBit_add_one]
    · obtain rfl : b = m := by omega
      rw [if_neg hlow, Nat.sub_self, Nat.add_sub_cancel, Nat.sub_self]
      rcases Nat.mod_two_eq_zero_or_one i with h | h <;> simp [h, Nat.testBit_zero]

theorem rev_rev {m i : Nat} (hi : i < 2 ^ m) : rev m (rev m i) = i := by
  refine Nat.eq_of_testBit_eq fun b => ?_
  by_cases hb : b < m
  · rw [testBit_rev m _ b hb, testBit_rev m i _ (by omega), show m - 1 - (m - 1 - b) = b by omega]
  · have hpow : 2 ^ m ≤ 2 ^ b := Nat.pow_le_pow_right (by decide) (by omega)
    rw [Nat.testBit_lt_two_pow ((rev_lt m _).trans_le hpow), Nat.testBit_lt_two_pow (hi.trans_le hpow)]

/-- Settles O19: the bits are those of `testBit_rev`, which twice gives the index back. -/
theorem bitReversalIndex : Obligations.BitReversalIndex :=
  ⟨fun m i hi => ⟨rev_lt m i, rev_rev hi, testBit_rev m i⟩,
    by decide, by decide, by decide, by decide, by decide⟩

/-- Going one index on, a set top bit is cleared and carries into the rest (41_ntt.md R152). -/
theorem bitFlip_of_top_set (m r : Nat) (hr : r < 2 ^ m) :
    bitFlip (m + 1) (2 ^ m) (2 ^ m + r) = bitFlip m (2 ^ m / 2) r := by
  have hbit : (2 ^ m + r).testBit m = true := by
    rw [Nat.testBit_two_pow_add_eq, Nat.testBit_lt_two_pow hr, Bool.not_false]
  rw [bitFlip, Nat.and_two_pow, hbit, if_pos (by simp), Nat.add_sub_cancel_left]

/-- A clear top bit is set, and the flip ends (41_ntt.md R152). -/
theorem bitFlip_of_top_clear (m r : Nat) (hr : r < 2 ^ m) :
    bitFlip (m + 1) (2 ^ m) r = r + 2 ^ m := by
  rw [bitFlip, Nat.and_two_pow, Nat.testBit_lt_two_pow hr, if_neg (by simp)]

/-- Settles O20, by induction on m: the top bit of Rev(m, i - 1) is the lowest bit of i - 1, and where it
is set the carry goes on as for i / 2. -/
theorem incrementalBitFlip : Obligations.IncrementalBitFlip := by
  intro m
  induction m with
  | zero => intro i hpos hlt; omega
  | succ m ih =>
    intro i hpos hlt
    rw [pow_succ] at hlt
    rw [Nat.add_sub_cancel]
    rcases Nat.even_or_odd' i with ⟨n, rfl | rfl⟩
    · have hodd : 2 * n - 1 = 2 * (n - 1) + 1 := by omega
      have hhalf : 2 ^ m / 2 = 2 ^ (m - 1) := by
        cases m with
        | zero => omega
        | succ m => rw [pow_succ, Nat.mul_div_cancel _ two_pos, Nat.add_sub_cancel]
      rw [hodd, rev_two_mul_add_one, bitFlip_of_top_set m _ (rev_lt m _), hhalf,
        ih n (by omega) (by omega), rev_two_mul]
    · rw [Nat.add_sub_cancel, rev_two_mul, bitFlip_of_top_clear m _ (rev_lt m n), rev_two_mul_add_one,
        Nat.add_comm]

/-! ### The transform commands -/

/-- A transform command is done in every configured phase (43_orchestrator.md R212). -/
theorem exec_configured {i : Instr} {s u : State} (hi : phaseAllowed i s.phase = (s.phase != .unconf))
    (hphase : s.phase ≠ .unconf) (hdone : bodyOf i s = .done u) : exec i s = .next (completed u) :=
  (exec_eq i s).trans (runCommand_done (hi.trans (bne_iff_ne.2 hphase)) hdone)

/-- Settles O21: where NLEN = 2^LOGN, reading at reversed indices is writing at them. -/
theorem bitrevCompletes : Obligations.BitrevCompletes := by
  intro s b hphase hnlen _
  refine ⟨bitRevSeq s.logn.toNat (getBuf b s), ?_, fun i hi => ?_, exec_configured rfl hphase rfl⟩
  · rw [bitRevSeq_length, hnlen]
  · rw [elem_bitRevSeq _ _ _ (rev_lt _ i), rev_rev (hnlen ▸ hi)]

/-- Settles O23: the stages are the pseudocode of NTTBF, which every configured phase allows. -/
theorem nttbfCompletes : Obligations.NttbfCompletes := fun _ _ _ hphase => exec_configured rfl hphase rfl

/-- In a sequence of commands, one that is done on a buffer hands on the buffer it leaves. -/
theorem execAll_cons_setBuf {i : Instr} {b : Buf} {x : List Residue} {s : State} (rest : List Instr)
    (hi : phaseAllowed i s.phase = (s.phase != .unconf)) (hphase : s.phase ≠ .unconf)
    (hdone : bodyOf i s = .done (setBuf b x s)) :
    execAll (i :: rest) s = execAll rest (completed (setBuf b x s)) :=
  execAll_cons_done i rest (hi.trans (bne_iff_ne.2 hphase)) hdone

/-- The completion between two commands leaves nothing of its own on the buffer. -/
theorem completed_setBuf_completed (b : Buf) (x y : List Residue) (s : State) :
    completed (setBuf b y (completed (setBuf b x s))) = completed (setBuf b y s) := by
  cases b <;> rfl

theorem getBuf_completed (b : Buf) (s : State) : getBuf b (completed s) = getBuf b s := by
  cases b <;> rfl

theorem completed_setBuf_phase (b : Buf) (x : List Residue) (s : State) :
    (completed (setBuf b x s)).phase = s.phase := by cases b <;> rfl

/-- BITREV and NTTBF one after the other leave the stages of the reordered buffer (41_ntt.md R161). -/
theorem execAll_bitrev_nttbf (b : Buf) (d : Dir) (rest : List Instr) {s : State}
    (hphase : s.phase ≠ .unconf) :
    execAll (.bitrev b :: .nttbf b d :: rest) s = execAll rest (completed (setBuf b
      (nttStages s.root d s.logn.toNat (bitRevSeq s.logn.toNat (getBuf b s))) s)) := by
  have hphase' := hphase
  rw [← completed_setBuf_phase b (bitRevSeq s.logn.toNat (getBuf b s)) s] at hphase'
  rw [execAll_cons_setBuf _ rfl hphase rfl, execAll_cons_setBuf _ rfl hphase' rfl,
    completed_setBuf_completed, getBuf_completed, getBuf_setBuf_same]
  cases b <;> rfl

/-- Settles O25: NTT's pseudocode is that of its commands, and no completion between them is seen in the
buffer. -/
theorem nttCompletes : Obligations.NttCompletes := by
  intro s b d hphase hnlen
  have hexec : exec (.ntt b d) s =
      .next (completed (setBuf b (nttSeq s.root s.logn.toNat d (getBuf b s)) s)) :=
    exec_configured rfl hphase (nttBody_eq b d s hnlen)
  refine ⟨hexec, hexec.trans ?_⟩
  cases d with
  | forward => exact (execAll_bitrev_nttbf b .forward [] hphase).symm
  | inverse =>
    have hphase' := hphase
    rw [← completed_setBuf_phase b
      (nttStages s.root .inverse s.logn.toNat (bitRevSeq s.logn.toNat (getBuf b s))) s] at hphase'
    rw [execAll_bitrev_nttbf b .inverse _ hphase, execAll_cons_setBuf _ rfl hphase' rfl,
      completed_setBuf_completed, getBuf_completed, getBuf_setBuf_same, nttSeq, ← hnlen]
    cases b <;> rfl

/-! ### The butterflies of a stage -/

theorem elem_cons_succ (r : Residue) (x : List Residue) (t : Nat) : elem (r :: x) (t + 1) = elem x t := rfl

theorem elem_append_left {x y : List Residue} {t : Nat} (h : t < x.length) :
    elem (x ++ y) t = elem x t := List.getD_append _ _ _ _ h

theorem elem_append_right {x y : List Residue} {t : Nat} (h : x.length ≤ t) :
    elem (x ++ y) t = elem y (t - x.length) := List.getD_append_right _ _ _ _ h

theorem elem_drop (x : List Residue) (n t : Nat) : elem (x.drop n) t = elem x (n + t) := by
  simp [elem, List.getD, List.getElem?_drop]

theorem elem_take (x : List Residue) {n t : Nat} (h : t < n) : elem (x.take n) t = elem x t := by
  simp [elem, List.getD, h]

/-- The j-th butterfly of a block uses the j-th power of the twiddle (41_ntt.md R156, R157). -/
theorem elem_nttBlock (w : Residue) {us xs : List Residue} (hlen : us.length = xs.length) (c : Nat)
    {j : Nat} (hj : j < us.length) :
    (elem (nttBlock w (toResidue c) us xs).1 j, elem (nttBlock w (toResidue c) us xs).2 j) =
      butterfly (elem us j) (elem xs j) (toResidue (c * w.val ^ j)) := by
  induction us generalizing xs c j with
  | nil => exact absurd hj (Nat.not_lt_zero j)
  | cons u us ih =>
    cases xs with
    | nil => exact absurd hlen (Nat.succ_ne_zero _)
    | cons x xs =>
      have hadvance : mulMod (toResidue c) w = toResidue (c * w.val) := by
        rw [← toResidue_of_val w, mulMod_toResidue, toResidue_of_val]
      rw [nttBlock, hadvance]
      cases j with
      | zero => rw [pow_zero, mul_one]; rfl
      | succ j =>
        simp only [elem_cons_succ]
        rw [ih (Nat.succ.inj hlen) _ (Nat.lt_of_succ_lt_succ hj), pow_succ', mul_assoc]

/-- The lower half of the k-th block of a sequence (41_ntt.md R158). -/
def lowerHalf (half k : Nat) (a : List Residue) : List Residue := (a.drop (k * (2 * half))).take half

/-- The upper half of the k-th block of a sequence (41_ntt.md R158). -/
def upperHalf (half k : Nat) (a : List Residue) : List Residue := lowerHalf half k (a.drop half)

theorem lowerHalf_zero (half : Nat) (a : List Residue) : lowerHalf half 0 a = a.take half := by
  rw [lowerHalf, Nat.zero_mul, List.drop_zero]

theorem lowerHalf_succ (half k : Nat) (a : List Residue) :
    lowerHalf half (k + 1) a = lowerHalf half k (a.drop (2 * half)) := by
  rw [lowerHalf, lowerHalf, List.drop_drop, Nat.succ_mul, Nat.add_comm]

theorem upperHalf_succ (half k : Nat) (a : List Residue) :
    upperHalf half (k + 1) a = upperHalf half k (a.drop (2 * half)) := by
  rw [upperHalf, upperHalf, lowerHalf_succ, List.drop_drop, List.drop_drop, Nat.add_comm]

theorem elem_lowerHalf {half j : Nat} (k : Nat) (a : List Residue) (hj : j < half) :
    elem (lowerHalf half k a) j = elem a (k * (2 * half) + j) := by
  rw [lowerHalf, elem_take _ hj, elem_drop]

theorem elem_upperHalf {half j : Nat} (k : Nat) (a : List Residue) (hj : j < half) :
    elem (upperHalf half k a) j = elem a (k * (2 * half) + j + half) := by
  rw [upperHalf, elem_lowerHalf k _ hj, elem_drop, Nat.add_comm half]

theorem lowerHalf_length {half k : Nat} {a : List Residue} (h : k * (2 * half) + half ≤ a.length) :
    (lowerHalf half k a).length = half := by
  rw [lowerHalf, List.length_take, List.length_drop]
  omega

theorem upperHalf_length {half k : Nat} {a : List Residue} (h : k * (2 * half) + 2 * half ≤ a.length) :
    (upperHalf half k a).length = half :=
  lowerHalf_length (by rw [List.length_drop]; omega)

/-- A stage does to the k-th block of a sequence what its block function does to the block's halves. -/
theorem elem_overBlocks {f : List Residue → List Residue → List Residue × List Residue} {half : Nat}
    (hf : ∀ us xs, us.length = xs.length →
      (f us xs).1.length = us.length ∧ (f us xs).2.length = us.length)
    {blocks : Nat} {a : List Residue} (ha : blocks * (2 * half) ≤ a.length) {k j : Nat}
    (hk : k < blocks) (hj : j < half) :
    (elem (overBlocks f half blocks a) (k * (2 * half) + j),
      elem (overBlocks f half blocks a) (k * (2 * half) + j + half)) =
    (elem (f (lowerHalf half k a) (upperHalf half k a)).1 j,
      elem (f (lowerHalf half k a) (upperHalf half k a)).2 j) := by
  induction blocks generalizing a k with
  | zero => exact absurd hk (Nat.not_lt_zero k)
  | succ blocks ih =>
    rw [Nat.succ_mul] at ha
    have hlo : (lowerHalf half 0 a).length = half := lowerHalf_length (by omega)
    have hhi : (upperHalf half 0 a).length = half := upperHalf_length (by omega)
    obtain ⟨hfst, hsnd⟩ := hf _ _ (hlo.trans hhi.symm)
    have hblock : ((f (lowerHalf half 0 a) (upperHalf half 0 a)).1 ++
        (f (lowerHalf half 0 a) (upperHalf half 0 a)).2).length = 2 * half := by
      rw [List.length_append]; omega
    rw [overBlocks, ← lowerHalf_zero, ← lowerHalf_zero, ← upperHalf]
    cases k with
    | zero =>
      rw [elem_append_left (by omega), elem_append_left (by omega), elem_append_left (by omega),
        elem_append_right (by omega), hfst, hlo, Nat.zero_mul, Nat.zero_add, Nat.add_sub_cancel]
    | succ k =>
      have hplace : (k + 1) * (2 * half) = 2 * half + k * (2 * half) := by
        rw [Nat.succ_mul, Nat.add_comm]
      rw [elem_append_right (by omega), elem_append_right (by omega), hblock, hplace,
        Nat.add_assoc, Nat.add_assoc, Nat.add_sub_cancel_left, Nat.add_sub_cancel_left, lowerHalf_succ,
        upperHalf_succ]
      exact ih (by rw [List.length_drop]; omega) (Nat.lt_of_succ_lt_succ hk)

/-- One stage, pair by pair (41_ntt.md R155 to R158). -/
theorem elem_nttStage (g : Residue) (d : Dir) {m s : Nat} {a : List Residue} (hs : s < m)
    (ha : a.length = 2 ^ m) {k j : Nat} (hk : k < 2 ^ (m - (s + 1))) (hj : j < 2 ^ s) :
    (elem (nttStage g d m s a) (k * 2 ^ (s + 1) + j),
      elem (nttStage g d m s a) (k * 2 ^ (s + 1) + j + 2 ^ s)) =
    butterfly (elem a (k * 2 ^ (s + 1) + j)) (elem a (k * 2 ^ (s + 1) + j + 2 ^ s))
      (toResidue ((stageTwiddle g (2 ^ (s + 1)) d).val ^ j)) := by
  have hsize : 2 ^ (m - (s + 1)) * (2 * 2 ^ s) = a.length := (pow_split m s hs).trans ha.symm
  have hblock : k * (2 * 2 ^ s) + 2 * 2 ^ s ≤ a.length := by
    rw [← Nat.succ_mul, ← hsize]
    exact Nat.mul_le_mul_right _ hk
  have hlo : (lowerHalf (2 ^ s) k a).length = 2 ^ s := lowerHalf_length (by omega)
  rw [nttStage, pow_succ' 2 s,
    elem_overBlocks (fun us xs h => nttBlock_length _ us xs _ h) hsize.le hk hj,
    elem_nttBlock _ (hlo.trans (upperHalf_length hblock).symm) 1 (hlo.symm ▸ hj),
    elem_lowerHalf k a hj, elem_upperHalf k a hj, one_mul]

/-- Settles O22, by `elem_nttStage`. -/
theorem nttStageButterflies : Obligations.NttStageButterflies := fun g d m s a hs ha =>
  ⟨nttStage_length g d m s a hs ha, fun _ hk _ hj =>
    Prod.ext_iff.1 (elem_nttStage g d hs ha hk hj)⟩

/-! ### Fourier sums over a ring -/

section
variable {R : Type} [CommRing R]

/-- The Fourier sum of the first n values of `f` for index k, with the powers of `w`. -/
def dft (w : R) (n : Nat) (f : Nat → R) (k : Nat) : R := ∑ j ∈ Finset.range n, f j * w ^ (j * k)

/-- A sum of one term is that term. -/
theorem dft_one (w : R) (f : Nat → R) (k : Nat) : dft w 1 f k = f 0 := by simp [dft]

theorem dft_congr {w : R} {n : Nat} {f f' : Nat → R} (h : ∀ j < n, f j = f' j) (k : Nat) :
    dft w n f k = dft w n f' k :=
  Finset.sum_congr rfl fun j hj => by rw [h j (Finset.mem_range.1 hj)]

theorem dft_mul_left (w c : R) (n : Nat) (f : Nat → R) (k : Nat) :
    dft w n (fun j => c * f j) k = c * dft w n f k := by
  simp only [dft, Finset.mul_sum, mul_assoc]

theorem dft_add_period {w : R} {n : Nat} (hw : w ^ n = 1) (f : Nat → R) (k : Nat) :
    dft w n f (k + n) = dft w n f k := by
  refine Finset.sum_congr rfl fun j _ => ?_
  rw [Nat.mul_add, pow_add, Nat.mul_comm j n, pow_mul w n, hw, one_pow, mul_one]

/-- The radix-2 split: a sum of 2n terms from the sums of its even and of its odd terms. -/
theorem dft_two_mul (w : R) (n : Nat) (f : Nat → R) (k : Nat) :
    dft w (2 * n) f k =
      dft (w ^ 2) n (fun j => f (2 * j)) k + w ^ k * dft (w ^ 2) n (fun j => f (2 * j + 1)) k := by
  induction n with
  | zero => simp [dft]
  | succ n ih =>
    simp only [dft] at ih ⊢
    rw [Nat.mul_succ, Finset.sum_range_succ, Finset.sum_range_succ, ih, Finset.sum_range_succ,
      Finset.sum_range_succ]
    ring

/-- In the upper half of the indices the odd terms enter with the other sign. -/
theorem dft_two_mul_upper {w : R} {n : Nat} (hw : w ^ n = -1) (f : Nat → R) (k : Nat) :
    dft w (2 * n) f (k + n) =
      dft (w ^ 2) n (fun j => f (2 * j)) k - w ^ k * dft (w ^ 2) n (fun j => f (2 * j + 1)) k := by
  have hperiod : (w ^ 2) ^ n = 1 := by rw [pow_right_comm, hw, neg_one_sq]
  rw [dft_two_mul, dft_add_period hperiod, dft_add_period hperiod, pow_add, hw]
  ring

/-- The cyclic convolution of the first n values of `f` and `f'` (41_ntt.md R166). -/
def cyclicSum (n : Nat) (f f' : Nat → R) (t : Nat) : R :=
  ∑ a ∈ Finset.range n, ∑ b ∈ Finset.range n, if (a + b) % n = t then f a * f' b else 0

/-- The Fourier sums of a cyclic convolution are the products of the Fourier sums: a power of the root
depends on its exponent modulo n only. -/
theorem dft_cyclicSum {w : R} {n : Nat} (hw : w ^ n = 1) (f f' : Nat → R) (k : Nat) :
    dft w n (cyclicSum n f f') k = dft w n f k * dft w n f' k := by
  have hpow (a b : Nat) : w ^ ((a + b) % n * k) = w ^ (a * k) * w ^ (b * k) := by
    rw [← pow_add, ← Nat.add_mul, pow_mul, pow_mul w (a + b)]
    congr 1
    exact (pow_eq_pow_mod _ hw).symm
  calc dft w n (cyclicSum n f f') k
      = ∑ a ∈ Finset.range n, ∑ b ∈ Finset.range n, ∑ t ∈ Finset.range n,
          (if (a + b) % n = t then f a * f' b else 0) * w ^ (t * k) := by
        simp only [dft, cyclicSum, Finset.sum_mul]
        rw [Finset.sum_comm]
        exact Finset.sum_congr rfl fun a _ => Finset.sum_comm
    _ = ∑ a ∈ Finset.range n, ∑ b ∈ Finset.range n, f a * f' b * w ^ ((a + b) % n * k) := by
        refine Finset.sum_congr rfl fun a ha => Finset.sum_congr rfl fun b _ => ?_
        have hmem : (a + b) % n < n := Nat.mod_lt _ (by have := Finset.mem_range.1 ha; omega)
        simp [ite_mul, hmem]
    _ = dft w n f k * dft w n f' k := by
        simp only [dft, Finset.sum_mul_sum, hpow]
        exact Finset.sum_congr rfl fun a _ => Finset.sum_congr rfl fun b _ => by ring

end

/-! ### Primitive roots in a field -/

section
variable {F : Type} [Field F]

/-- Two different powers of a primitive root are orthogonal. -/
theorem sum_pow_mul_inv_pow {w : F} {n : Nat} (hw : IsPrimitiveRoot w n) {j l : Nat} (hj : j < n)
    (hl : l < n) :
    ∑ k ∈ Finset.range n, w ^ (j * k) * w⁻¹ ^ (k * l) = if j = l then (n : F) else 0 := by
  have hw0 : w ≠ 0 := hw.ne_zero (by omega)
  have hterm (k : Nat) : w ^ (j * k) * w⁻¹ ^ (k * l) = (w ^ j * (w ^ l)⁻¹) ^ k := by
    rw [mul_pow, ← inv_pow, ← pow_mul, ← pow_mul, Nat.mul_comm k l]
  simp only [hterm]
  split
  · next h => simp [h, hw0]
  · next h =>
    have hne : w ^ j * (w ^ l)⁻¹ ≠ 1 := fun heq =>
      h (hw.pow_inj hj hl ((mul_inv_eq_one₀ (pow_ne_zero l hw0)).1 heq))
    have hone : (w ^ j * (w ^ l)⁻¹) ^ n = 1 := by
      rw [mul_pow, inv_pow, pow_right_comm w j, pow_right_comm w l, hw.pow_eq_one, one_pow, one_pow,
        inv_one, mul_one]
    rw [geom_sum_eq hne, hone, sub_self, zero_div]

/-- The Fourier sums with the inverse root undo those with the root, up to the length. -/
theorem dft_inv_dft {w : F} {n : Nat} (hw : IsPrimitiveRoot w n) (f : Nat → F) {l : Nat} (hl : l < n) :
    dft w⁻¹ n (dft w n f) l = n * f l := by
  calc dft w⁻¹ n (dft w n f) l
      = ∑ j ∈ Finset.range n, f j * ∑ k ∈ Finset.range n, w ^ (j * k) * w⁻¹ ^ (k * l) := by
        simp only [dft, Finset.sum_mul, Finset.mul_sum, mul_assoc]
        exact Finset.sum_comm
    _ = ∑ j ∈ Finset.range n, f j * if j = l then (n : F) else 0 :=
        Finset.sum_congr rfl fun j hj => by rw [sum_pow_mul_inv_pow hw (Finset.mem_range.1 hj) hl]
    _ = n * f l := by simp [hl, mul_comm]

end

/-! ### Residues in the field of the integers modulo Q -/

/-- A residue as an element of the field of the integers modulo Q. -/
def toZMod (r : Residue) : ZMod Q := (r.val : ZMod Q)

theorem toZMod_injective : Function.Injective toZMod := fun u v h => by
  have hmod := (ZMod.natCast_eq_natCast_iff' u.val v.val Q).1 h
  rw [Nat.mod_eq_of_lt u.isLt, Nat.mod_eq_of_lt v.isLt] at hmod
  exact Fin.ext hmod

theorem toZMod_toResidue (e : Nat) : toZMod (toResidue e) = (e : ZMod Q) := ZMod.natCast_mod e Q

theorem toZMod_addMod (u v : Residue) : toZMod (addMod u v) = toZMod u + toZMod v :=
  (toZMod_toResidue _).trans (Nat.cast_add _ _)

theorem toZMod_mulMod (u v : Residue) : toZMod (mulMod u v) = toZMod u * toZMod v :=
  (toZMod_toResidue _).trans (Nat.cast_mul _ _)

theorem toZMod_subMod (u v : Residue) : toZMod (subMod u v) = toZMod u - toZMod v := by
  refine (toZMod_toResidue _).trans ?_
  rw [Nat.cast_sub (by omega), Nat.cast_add, ZMod.natCast_self, add_zero]
  rfl

theorem toZMod_modPow (b e : Nat) : toZMod (modPow b e) = (b : ZMod Q) ^ e := by
  rw [modPow_eq, toZMod_toResidue, Nat.cast_pow]

theorem fact_prime_Q : Fact (Nat.Prime Q) := ⟨prime_Q⟩

theorem natCast_eq_zero_iff_mod {a : Nat} : (a : ZMod Q) = 0 ↔ a % Q = 0 :=
  (ZMod.natCast_eq_zero_iff a Q).trans Nat.dvd_iff_mod_eq_zero

/-- ModInv is the inverse of the field, at 0 too. -/
theorem toZMod_modInv (a : Nat) : toZMod (modInv a) = (a : ZMod Q)⁻¹ := by
  have := fact_prime_Q
  by_cases ha : a % Q = 0
  · rw [modInv_of_dvd ha, natCast_eq_zero_iff_mod.2 ha, inv_zero]
    exact Nat.cast_zero
  · refine eq_inv_of_mul_eq_one_right ?_
    have hinv := mul_modInv ha
    rw [toZMod, ← Nat.cast_mul, ← ZMod.natCast_mod, hinv, Nat.cast_one]

/-! ### The stages as Fourier sums -/

/-- The first t stages of the transform, block sizes 2, 4, .. 2^t (41_ntt.md R157). -/
def firstStages (g : Residue) (d : Dir) (m t : Nat) (x : List Residue) : List Residue :=
  (List.range t).foldl (fun a s => nttStage g d m s a) x

theorem firstStages_all (g : Residue) (d : Dir) (m : Nat) (x : List Residue) :
    firstStages g d m m x = nttStages g d m x := rfl

theorem firstStages_succ (g : Residue) (d : Dir) (m t : Nat) (x : List Residue) :
    firstStages g d m (t + 1) x = nttStage g d m t (firstStages g d m t x) := by
  rw [firstStages, List.range_succ, List.foldl_append]
  rfl

theorem firstStages_length (g : Residue) (d : Dir) {m t : Nat} (ht : t ≤ m) {x : List Residue}
    (hx : x.length = 2 ^ m) : (firstStages g d m t x).length = 2 ^ m :=
  foldl_range_keeps (fun a => a.length = 2 ^ m) _ t
    (fun a s hs ha => nttStage_length g d m s a (hs.trans_le ht) ha) x hx

/-- `w` is a root whose powers are the stage twiddles for the length 2^m (41_ntt.md R156). With m = 0
there is no stage, and any `w` is one. -/
structure StageRoot (g : Residue) (d : Dir) (m : Nat) (w : ZMod Q) : Prop where
  /-- The twiddle of block size 2^(s+1). -/
  twiddle : ∀ s < m, toZMod (stageTwiddle g (2 ^ (s + 1)) d) = w ^ 2 ^ (m - (s + 1))
  /-- Half a turn is -1. -/
  half_turn : 0 < m → w ^ 2 ^ (m - 1) = -1

/-- The part of `x` a block of a stage works on: every 2^r-th element, from Rev(r, block) on. -/
def strided (x : List Residue) (r block j : Nat) : ZMod Q := toZMod (elem x (j * 2 ^ r + rev r block))

/-- The even terms of a block's part are the part of the block of half the size in its lower half. -/
theorem strided_even (x : List Residue) (r block j : Nat) :
    strided x r block (2 * j) = strided x (r + 1) (2 * block) j := by
  rw [strided, strided, rev_two_mul, pow_succ', Nat.mul_comm 2 j, Nat.mul_assoc]

/-- The odd terms are the part of the one in its upper half. -/
theorem strided_odd (x : List Residue) (r block j : Nat) :
    strided x r block (2 * j + 1) = strided x (r + 1) (2 * block + 1) j := by
  have hplace : (2 * j + 1) * 2 ^ r + rev r block = j * 2 ^ (r + 1) + (2 ^ r + rev r block) := by ring
  rw [strided, strided, rev_two_mul_add_one, hplace]

/-- One stage in the field, pair by pair (41_ntt.md R155 to R158). -/
theorem toZMod_elem_nttStage {g : Residue} {d : Dir} {m s : Nat} {a : List Residue} {w : ZMod Q}
    (hs : s < m) (ha : a.length = 2 ^ m) (hw : toZMod (stageTwiddle g (2 ^ (s + 1)) d) = w)
    {block j : Nat} (hblock : block < 2 ^ (m - (s + 1))) (hj : j < 2 ^ s) :
    toZMod (elem (nttStage g d m s a) (block * 2 ^ (s + 1) + j)) =
      toZMod (elem a (block * 2 ^ (s + 1) + j)) +
        w ^ j * toZMod (elem a (block * 2 ^ (s + 1) + j + 2 ^ s)) ∧
    toZMod (elem (nttStage g d m s a) (block * 2 ^ (s + 1) + j + 2 ^ s)) =
      toZMod (elem a (block * 2 ^ (s + 1) + j)) -
        w ^ j * toZMod (elem a (block * 2 ^ (s + 1) + j + 2 ^ s)) := by
  obtain ⟨hlo, hhi⟩ := (nttStageButterflies g d m s a hs ha).2 block hblock j hj
  have hpower : toZMod (toResidue ((stageTwiddle g (2 ^ (s + 1)) d).val ^ j)) = w ^ j := by
    rw [toZMod_toResidue, Nat.cast_pow, ← hw]
    rfl
  constructor
  · rw [hlo, toZMod_addMod, toZMod_mulMod, hpower, mul_comm _ (w ^ j)]
  · rw [hhi, toZMod_subMod, toZMod_mulMod, hpower, mul_comm _ (w ^ j)]

/-- A stage is one radix-2 split: where the two halves of a block hold the Fourier sums of the even and of
the odd terms, the block then holds those of all terms. -/
theorem nttStage_radix2 {g : Residue} {d : Dir} {m s : Nat} {a : List Residue} {w : ZMod Q}
    (hs : s < m) (ha : a.length = 2 ^ m) (hw : toZMod (stageTwiddle g (2 ^ (s + 1)) d) = w)
    (hhalf : w ^ 2 ^ s = -1) {f : Nat → ZMod Q} {block : Nat} (hblock : block < 2 ^ (m - (s + 1)))
    (heven : ∀ j < 2 ^ s, toZMod (elem a (2 * block * 2 ^ s + j)) =
      dft (w ^ 2) (2 ^ s) (fun i => f (2 * i)) j)
    (hodd : ∀ j < 2 ^ s, toZMod (elem a ((2 * block + 1) * 2 ^ s + j)) =
      dft (w ^ 2) (2 ^ s) (fun i => f (2 * i + 1)) j)
    {k : Nat} (hk : k < 2 ^ (s + 1)) :
    toZMod (elem (nttStage g d m s a) (block * 2 ^ (s + 1) + k)) = dft w (2 ^ (s + 1)) f k := by
  have hlower (j : Nat) : block * 2 ^ (s + 1) + j = 2 * block * 2 ^ s + j := by ring
  have hupper (j : Nat) : block * 2 ^ (s + 1) + j + 2 ^ s = (2 * block + 1) * 2 ^ s + j := by ring
  by_cases hside : k < 2 ^ s
  · rw [(toZMod_elem_nttStage hs ha hw hblock hside).1, hupper, hlower, heven k hside, hodd k hside,
      pow_succ' 2 s, dft_two_mul]
  · obtain ⟨j, rfl⟩ : ∃ j, k = j + 2 ^ s := ⟨k - 2 ^ s, by omega⟩
    have hj : j < 2 ^ s := by omega
    rw [← Nat.add_assoc, (toZMod_elem_nttStage hs ha hw hblock hj).2, hupper, hlower, heven j hj,
      hodd j hj, pow_succ' 2 s, dft_two_mul_upper hhalf]

/-- After t stages each block of 2^t elements holds the Fourier sums of its part of the input. -/
theorem elem_firstStages {g : Residue} {d : Dir} {m : Nat} {w : ZMod Q} (hw : StageRoot g d m w)
    (x : List Residue) {t : Nat} (ht : t ≤ m) {block k : Nat} (hblock : block < 2 ^ (m - t))
    (hk : k < 2 ^ t) :
    toZMod (elem (firstStages g d m t (bitRevSeq m x)) (block * 2 ^ t + k)) =
      dft (w ^ 2 ^ (m - t)) (2 ^ t) (strided x (m - t) block) k := by
  induction t generalizing block k with
  | zero =>
    obtain rfl : k = 0 := by omega
    rw [pow_zero, dft_one, strided, Nat.mul_one, Nat.add_zero, Nat.zero_mul, Nat.zero_add]
    exact congrArg toZMod (elem_bitRevSeq m block x hblock)
  | succ t ih =>
    have hr : m - t = m - (t + 1) + 1 := by omega
    have hblocks : 2 ^ (m - t) = 2 * 2 ^ (m - (t + 1)) := by rw [hr, pow_succ']
    have hsquare : (w ^ 2 ^ (m - (t + 1))) ^ 2 = w ^ 2 ^ (m - t) := by
      rw [← pow_mul, hblocks, Nat.mul_comm]
    have hhalf : (w ^ 2 ^ (m - (t + 1))) ^ 2 ^ t = -1 := by
      rw [← pow_mul, ← pow_add, show m - (t + 1) + t = m - 1 by omega, hw.half_turn (by omega)]
    rw [firstStages_succ]
    refine nttStage_radix2 ht (firstStages_length g d (by omega) (bitRevSeq_length m x))
      (hw.twiddle t ht) hhalf hblock (fun j hj => ?_) (fun j hj => ?_) hk
    · simp only [hsquare, strided_even, ← hr]
      exact ih (by omega) (by omega) hj
    · simp only [hsquare, strided_odd, ← hr]
      exact ih (by omega) (by omega) hj

/-- After all stages the one block holds the Fourier sums of the whole input. -/
theorem elem_nttStages {g : Residue} {d : Dir} {m : Nat} {w : ZMod Q} (hw : StageRoot g d m w)
    (x : List Residue) {k : Nat} (hk : k < 2 ^ m) :
    toZMod (elem (nttStages g d m (bitRevSeq m x)) k) =
      dft w (2 ^ m) (fun j => toZMod (elem x j)) k := by
  have hall := elem_firstStages hw x le_rfl (block := 0) (by simp) hk
  rw [firstStages_all, Nat.zero_mul, Nat.zero_add, Nat.sub_self, pow_zero, pow_one] at hall
  rw [hall]
  exact dft_congr (fun j _ => by rw [strided, rev, pow_zero, Nat.mul_one, Nat.add_zero]) k

/-- The factor of the inverse transform, 1 in the forward direction (41_ntt.md R160). -/
def dirScale (m : Nat) : Dir → ZMod Q
  | .forward => 1
  | .inverse => ((2 ^ m : Nat) : ZMod Q)⁻¹

/-- The closed form in the field, in both directions (41_ntt.md R163). -/
theorem elem_nttSeq {g : Residue} {d : Dir} {m : Nat} {w : ZMod Q} (hw : StageRoot g d m w)
    (x : List Residue) {k : Nat} (hk : k < 2 ^ m) :
    toZMod (elem (nttSeq g m d x) k) =
      dirScale m d * dft w (2 ^ m) (fun j => toZMod (elem x j)) k := by
  cases d with
  | forward => rw [nttSeq, dirScale, one_mul]; exact elem_nttStages hw x hk
  | inverse =>
    have hlen := nttStages_length g .inverse m (bitRevSeq m x) (bitRevSeq_length m x)
    rw [nttSeq, dirScale, elem_scaleSeq _ (hlen.symm ▸ hk), toZMod_mulMod, elem_nttStages hw x hk,
      toZMod_modInv, mul_comm]

/-! ### The roots construction accepts -/

theorem toZMod_stageTwiddle_forward (g : Residue) (L : Nat) :
    toZMod (stageTwiddle g L .forward) = toZMod g ^ ((Q - 1) / L) := toZMod_modPow _ _

theorem toZMod_stageTwiddle_inverse (g : Residue) (L : Nat) :
    toZMod (stageTwiddle g L .inverse) = (toZMod (stageTwiddle g L .forward))⁻¹ := toZMod_modInv _

/-- RootOk in the field (43_orchestrator.md R193). -/
theorem rootOk_pow {g : Residue} {m : Nat} (hroot : rootOk g (2 ^ m) = true) (hm : 0 < m) :
    2 ^ m ∣ Q - 1 ∧ toZMod (stageTwiddle g (2 ^ m) .forward) ^ 2 ^ (m - 1) = -1 := by
  rcases of_decide_eq_true hroot with hone | ⟨hdvd, hhalf⟩
  · exact absurd hone (Nat.one_lt_two_pow hm.ne').ne'
  · refine ⟨Nat.dvd_of_mod_eq_zero hdvd, ?_⟩
    have hdiv : 2 ^ m / 2 = 2 ^ (m - 1) := Nat.pow_div hm two_pos
    have hval := congrArg (Nat.cast : Nat → ZMod Q) hhalf
    rw [Nat.cast_sub (by decide), ZMod.natCast_self, zero_sub, Nat.cast_one] at hval
    rw [← hval, ← hdiv]
    exact (toZMod_modPow _ _).symm

/-- The twiddle of a smaller block is a power of that of the whole length (41_ntt.md R156). -/
theorem toZMod_stageTwiddle_pow (g : Residue) {m s : Nat} (hdvd : 2 ^ m ∣ Q - 1) (hs : s < m) :
    toZMod (stageTwiddle g (2 ^ (s + 1)) .forward) =
      toZMod (stageTwiddle g (2 ^ m) .forward) ^ 2 ^ (m - (s + 1)) := by
  obtain ⟨c, hc⟩ := hdvd
  have hm : 2 ^ m = 2 ^ (s + 1) * 2 ^ (m - (s + 1)) := by rw [← pow_add]; congr 1; omega
  rw [toZMod_stageTwiddle_forward, toZMod_stageTwiddle_forward, ← pow_mul, hc,
    Nat.mul_div_cancel_left _ (Nat.two_pow_pos m), hm, Nat.mul_assoc,
    Nat.mul_div_cancel_left _ (Nat.two_pow_pos (s + 1)), Nat.mul_comm]

/-- In both directions the twiddle of the whole length is the root of the stages. -/
theorem stageRoot_stageTwiddle {g : Residue} {m : Nat} (hroot : rootOk g (2 ^ m) = true) (d : Dir) :
    StageRoot g d m (toZMod (stageTwiddle g (2 ^ m) d)) := by
  have := fact_prime_Q
  refine ⟨fun s hs => ?_, fun hm => ?_⟩
  · obtain ⟨hdvd, -⟩ := rootOk_pow hroot (by omega)
    have hpow := toZMod_stageTwiddle_pow g hdvd hs
    cases d with
    | forward => exact hpow
    | inverse => rw [toZMod_stageTwiddle_inverse, toZMod_stageTwiddle_inverse, hpow, inv_pow]
  · obtain ⟨-, hhalf⟩ := rootOk_pow hroot hm
    cases d with
    | forward => exact hhalf
    | inverse => rw [toZMod_stageTwiddle_inverse, inv_pow, hhalf, inv_neg, inv_one]

theorem zmod_neg_one_ne_one : (-1 : ZMod Q) ≠ 1 := by
  have : Fact (2 < Q) := ⟨by decide⟩
  exact ZMod.neg_one_ne_one

/-- A root with half a turn -1 has the order 2^m. -/
theorem StageRoot.isPrimitiveRoot {g : Residue} {d : Dir} {m : Nat} {w : ZMod Q}
    (hw : StageRoot g d m w) (hm : 0 < m) : IsPrimitiveRoot w (2 ^ m) := by
  have : Fact (Nat.Prime 2) := ⟨Nat.prime_two⟩
  obtain ⟨n, rfl⟩ : ∃ n, m = n + 1 := ⟨m - 1, by omega⟩
  have hhalf : w ^ 2 ^ n = -1 := hw.half_turn hm
  have horder : orderOf w = 2 ^ (n + 1) := by
    refine orderOf_eq_prime_pow (hhalf.symm ▸ zmod_neg_one_ne_one) ?_
    rw [pow_succ, pow_mul, hhalf, neg_one_sq]
  exact horder ▸ IsPrimitiveRoot.orderOf w

/-- For every root construction accepts, both directions are Fourier sums with a primitive root and its
inverse. For the length 1 the twiddle, which may be 0, is not used, and the root is 1. -/
theorem exists_primitive_stageRoot {g : Residue} {m : Nat} (hroot : rootOk g (2 ^ m) = true) :
    ∃ w : ZMod Q, IsPrimitiveRoot w (2 ^ m) ∧
      StageRoot g .forward m w ∧ StageRoot g .inverse m w⁻¹ := by
  rcases Nat.eq_zero_or_pos m with rfl | hm
  · exact ⟨1, IsPrimitiveRoot.one, ⟨nofun, nofun⟩, ⟨nofun, nofun⟩⟩
  · have hforward := stageRoot_stageTwiddle hroot .forward
    have hinverse := stageRoot_stageTwiddle hroot .inverse
    rw [toZMod_stageTwiddle_inverse] at hinverse
    exact ⟨_, hforward.isPrimitiveRoot hm, hforward, hinverse⟩

/-- The length divides Q - 1, so it is not 0 modulo Q. -/
theorem length_ne_zero {g : Residue} {m : Nat} (hroot : rootOk g (2 ^ m) = true) :
    ((2 ^ m : Nat) : ZMod Q) ≠ 0 := by
  rw [Ne, natCast_eq_zero_iff_mod]
  have hpos : 0 < 2 ^ m := Nat.two_pow_pos m
  have hle : 2 ^ m ≤ Q - 1 := by
    rcases Nat.eq_zero_or_pos m with rfl | hm
    · decide
    · exact Nat.le_of_dvd (by decide) (rootOk_pow hroot hm).1
  rw [Nat.mod_eq_of_lt (by omega)]
  omega

/-! ### Closed form, round trip and convolution -/

/-- The sum of the rule is the Fourier sum with the twiddle of the whole length (41_ntt.md R163). -/
theorem natCast_fourierSum (g : Residue) (m : Nat) (d : Dir) (x : List Residue) (k : Nat) :
    (fourierSum g m d x k : ZMod Q) =
      dft (toZMod (stageTwiddle g (2 ^ m) d)) (2 ^ m) (fun j => toZMod (elem x j)) k := by
  simp only [fourierSum, dft, toZMod, Nat.cast_sum, Nat.cast_mul, Nat.cast_pow]

/-- Settles O26, by `elem_nttSeq`. -/
theorem nttClosedForm : Obligations.NttClosedForm := by
  intro g m x hroot _
  have := fact_prime_Q
  refine ⟨fun k hk => ⟨toZMod_injective ?_, toZMod_injective ?_⟩, fun hm => toZMod_injective ?_⟩
  · rw [elem_nttSeq (stageRoot_stageTwiddle hroot .forward) x hk, toZMod_toResidue,
      natCast_fourierSum, dirScale, one_mul]
  · rw [elem_nttSeq (stageRoot_stageTwiddle hroot .inverse) x hk, toZMod_mulMod, toZMod_toResidue,
      natCast_fourierSum, toZMod_modInv, dirScale]
  · have hprimitive := (stageRoot_stageTwiddle hroot .forward).isPrimitiveRoot hm
    rw [toZMod_mulMod, toZMod_stageTwiddle_inverse,
      mul_inv_cancel₀ (hprimitive.ne_zero (Nat.two_pow_pos m).ne')]
    exact Nat.cast_one.symm

/-- Sequences of one length are equal where their elements are, in the field. -/
theorem eq_of_toZMod_elem {N : Nat} {x y : List Residue} (hx : x.length = N) (hy : y.length = N)
    (h : ∀ t < N, toZMod (elem x t) = toZMod (elem y t)) : x = y := by
  refine List.ext_getElem (hx.trans hy.symm) fun t htx hty => ?_
  rw [← elem_eq_getElem x t htx, ← elem_eq_getElem y t hty]
  exact toZMod_injective (h t (hx ▸ htx))

/-- Two directions with roots inverse to each other undo each other: one of them divides by the length. -/
theorem nttSeq_nttSeq {g : Residue} {m : Nat} {d d' : Dir} {w : ZMod Q}
    (hprimitive : IsPrimitiveRoot w (2 ^ m)) (hw : StageRoot g d m w) (hw' : StageRoot g d' m w⁻¹)
    (hscale : dirScale m d' * dirScale m d * ((2 ^ m : Nat) : ZMod Q) = 1) {x : List Residue}
    (hx : x.length = 2 ^ m) : nttSeq g m d' (nttSeq g m d x) = x := by
  have := fact_prime_Q
  refine eq_of_toZMod_elem (nttSeq_length g m d' _) hx fun l hl => ?_
  rw [elem_nttSeq hw' _ hl, dft_congr fun j hj => elem_nttSeq hw x hj, dft_mul_left,
    dft_inv_dft hprimitive _ hl, ← mul_assoc, ← mul_assoc, hscale, one_mul]

/-- Settles O27: the second order is the first with the inverse root. -/
theorem nttRoundTrip : Obligations.NttRoundTrip := by
  intro g m x hroot hx
  have := fact_prime_Q
  obtain ⟨w, hprimitive, hforward, hinverse⟩ := exists_primitive_stageRoot hroot
  have hN := length_ne_zero hroot
  refine ⟨nttSeq_nttSeq hprimitive hforward hinverse ?_ hx,
    nttSeq_nttSeq hprimitive.inv hinverse (by rwa [inv_inv]) ?_ hx⟩
  · rw [dirScale, dirScale, mul_one, inv_mul_cancel₀ hN]
  · rw [dirScale, dirScale, one_mul, inv_mul_cancel₀ hN]

theorem elem_mulSeq {x y : List Residue} {t : Nat} (hx : t < x.length) (hy : t < y.length) :
    elem (mulSeq x y) t = mulMod (elem x t) (elem y t) := by
  rw [elem_eq_getElem _ t (by rw [mulSeq_length]; omega), elem_eq_getElem _ t hx,
    elem_eq_getElem _ t hy]
  exact List.getElem_zipWith

theorem toZMod_elem_cyclicConv {N t : Nat} (x y : List Residue) (ht : t < N) :
    toZMod (elem (cyclicConv N x y) t) =
      cyclicSum N (fun a => toZMod (elem x a)) (fun b => toZMod (elem y b)) t := by
  rw [cyclicConv, elem_map_range _ _ _ ht, toZMod_toResidue]
  simp only [cyclicSum, toZMod, Nat.cast_sum, Nat.cast_ite, Nat.cast_mul, Nat.cast_zero]

/-- Settles O28, by `dft_cyclicSum` element by element. -/
theorem cyclicConvolution : Obligations.CyclicConvolution := by
  intro g m x y hroot _ _
  obtain ⟨w, hprimitive, hw, -⟩ := exists_primitive_stageRoot hroot
  have hlen (z : List Residue) := nttSeq_length g m .forward z
  refine eq_of_toZMod_elem (N := 2 ^ m) (by rw [mulSeq_length, hlen, hlen, min_self]) (hlen _)
    fun k hk => ?_
  rw [elem_mulSeq ((hlen x).symm ▸ hk) ((hlen y).symm ▸ hk), toZMod_mulMod, elem_nttSeq hw x hk,
    elem_nttSeq hw y hk, elem_nttSeq hw _ hk, dft_congr fun t ht => toZMod_elem_cyclicConv x y ht,
    dft_cyclicSum hprimitive.pow_eq_one, dirScale, one_mul, one_mul, one_mul]

end Sys2Proof.Machine

/-! Proofs for 42_fwht.md. As for the NTT, the residues are taken to the field `ZMod Q`. A Walsh sum of
2^(m+1) terms splits into those of its two halves (`walsh_succ_lower`, `walsh_succ_upper`), and a stage of
the engine is one such split: after t stages each block of 2^t elements holds the Walsh sums of the same
block of the input (`elem_firstFwhtStages`). The closed form is the last of these. The round trip follows
from the split again, the convolution from the sign being multiplicative in XOR. -/

namespace Sys2Proof.Machine

/-! ### The FWHT command -/

/-- Settles O29: a configured phase allows FWHT, whose pseudocode is done as `fwhtBody_eq` says. -/
theorem fwhtCompletes : Obligations.FwhtCompletes := fun s b d hphase hnlen =>
  exec_configured rfl hphase (fwhtBody_eq b d s hnlen)

/-! ### The sign -/

theorem popcount_succ (m v : Nat) :
    popcount (m + 1) v = popcount m v + if v.testBit m then 1 else 0 := by
  rw [popcount, List.range_succ, List.filter_append, List.length_append, ← popcount]
  cases h : v.testBit m <;> simp [h]

section
variable {R : Type} [CommRing R]

/-- The sign of the term j in the Walsh sum for index k (42_fwht.md R183). -/
def walshSign (R : Type) [CommRing R] (m j k : Nat) : R := (-1) ^ popcount m (j &&& k)

/-- Bit m changes the sign where both indices have it. -/
theorem walshSign_succ (m j k : Nat) :
    walshSign R (m + 1) j k =
      walshSign R m j k * if j.testBit m && k.testBit m then -1 else 1 := by
  rw [walshSign, popcount_succ, pow_add, Nat.testBit_and, ← walshSign]
  split <;> simp

theorem walshSign_comm (m j k : Nat) : walshSign R m j k = walshSign R m k j := by
  rw [walshSign, Nat.and_comm, ← walshSign]

theorem walshSign_zero_right (m j : Nat) : walshSign R m j 0 = 1 := by
  simp [walshSign, popcount]

/-- The sign of m bits depends on the low m bits of an index. -/
theorem walshSign_congr {m j j' : Nat} (h : ∀ b < m, j.testBit b = j'.testBit b) (k : Nat) :
    walshSign R m j k = walshSign R m j' k := by
  induction m with
  | zero => rfl
  | succ m ih =>
    rw [walshSign_succ, walshSign_succ, h m m.lt_succ_self, ih fun b hb => h b (hb.trans m.lt_succ_self)]

theorem walshSign_two_pow_add (m j k : Nat) : walshSign R m (2 ^ m + j) k = walshSign R m j k :=
  walshSign_congr (fun _ hb => Nat.testBit_two_pow_add_gt hb j) k

/-- The sign is a character of XOR: bit by bit, equal bits cancel. -/
theorem walshSign_xor (m a b k : Nat) :
    walshSign R m (a ^^^ b) k = walshSign R m a k * walshSign R m b k := by
  induction m with
  | zero => simp [walshSign, popcount]
  | succ m ih =>
    have hbit : (if (a ^^^ b).testBit m && k.testBit m then (-1 : R) else 1) =
        (if a.testBit m && k.testBit m then -1 else 1) *
          if b.testBit m && k.testBit m then -1 else 1 := by
      rw [Nat.testBit_xor]
      cases a.testBit m <;> cases b.testBit m <;> cases k.testBit m <;> simp
    rw [walshSign_succ, walshSign_succ, walshSign_succ, ih, hbit]
    ring

/-! ### Walsh sums over a ring -/

/-- The Walsh sum of the first 2^m values of `f` for index k (42_fwht.md R183). -/
def walsh (m : Nat) (f : Nat → R) (k : Nat) : R := ∑ j ∈ Finset.range (2 ^ m), walshSign R m j k * f j

/-- A sum of one term is that term. -/
theorem walsh_zero (f : Nat → R) (k : Nat) : walsh 0 f k = f 0 := by
  simp [walsh, walshSign, popcount]

theorem walsh_zero_right (m : Nat) (f : Nat → R) :
    walsh m f 0 = ∑ j ∈ Finset.range (2 ^ m), f j := by
  simp [walsh, walshSign_zero_right]

theorem walsh_congr {m : Nat} {f f' : Nat → R} (h : ∀ j < 2 ^ m, f j = f' j) (k : Nat) :
    walsh m f k = walsh m f' k :=
  Finset.sum_congr rfl fun j hj => by rw [h j (Finset.mem_range.1 hj)]

theorem walsh_mul_left (m : Nat) (c : R) (f : Nat → R) (k : Nat) :
    walsh m (fun j => c * f j) k = c * walsh m f k := by
  simp only [walsh, Finset.mul_sum, mul_left_comm]

theorem walsh_add (m : Nat) (f f' : Nat → R) (k : Nat) :
    walsh m (fun j => f j + f' j) k = walsh m f k + walsh m f' k := by
  simp only [walsh, mul_add, Finset.sum_add_distrib]

theorem walsh_sub (m : Nat) (f f' : Nat → R) (k : Nat) :
    walsh m (fun j => f j - f' j) k = walsh m f k - walsh m f' k := by
  simp only [walsh, mul_sub, Finset.sum_sub_distrib]

/-- A sum of 2^(m+1) terms from the sums of its halves: the terms of the upper half have bit m, so they
enter with the other sign where the index has it too. -/
theorem walsh_succ (m : Nat) (f : Nat → R) (k : Nat) :
    walsh (m + 1) f k =
      walsh m f k + (if k.testBit m then -1 else 1) * walsh m (fun j => f (2 ^ m + j)) k := by
  rw [walsh, pow_succ, Nat.mul_two, Finset.sum_range_add, walsh, walsh, Finset.mul_sum]
  congr 1
  · refine Finset.sum_congr rfl fun j hj => ?_
    rw [walshSign_succ, Nat.testBit_lt_two_pow (Finset.mem_range.1 hj)]
    simp
  · refine Finset.sum_congr rfl fun j hj => ?_
    rw [walshSign_succ, walshSign_two_pow_add, Nat.testBit_two_pow_add_eq,
      Nat.testBit_lt_two_pow (Finset.mem_range.1 hj), Bool.not_false, Bool.true_and]
    ring

theorem walsh_succ_lower {m k : Nat} (hk : k < 2 ^ m) (f : Nat → R) :
    walsh (m + 1) f k = walsh m f k + walsh m (fun j => f (2 ^ m + j)) k := by
  rw [walsh_succ, Nat.testBit_lt_two_pow hk]
  simp

theorem walsh_two_pow_add (m : Nat) (f : Nat → R) (k : Nat) :
    walsh m f (2 ^ m + k) = walsh m f k :=
  Finset.sum_congr rfl fun j _ => by
    rw [walshSign_comm, walshSign_two_pow_add, walshSign_comm]

theorem walsh_succ_upper {m k : Nat} (hk : k < 2 ^ m) (f : Nat → R) :
    walsh (m + 1) f (2 ^ m + k) = walsh m f k - walsh m (fun j => f (2 ^ m + j)) k := by
  rw [walsh_succ, Nat.testBit_two_pow_add_eq, Nat.testBit_lt_two_pow hk, walsh_two_pow_add,
    walsh_two_pow_add]
  simp [sub_eq_add_neg]

/-- The Walsh sums of the Walsh sums give every value back 2^m times: with A and B the sums of the halves,
those of A + B and A - B add up to twice those of A, and differ by twice those of B. -/
theorem walsh_walsh (m : Nat) (f : Nat → R) {l : Nat} (hl : l < 2 ^ m) :
    walsh m (walsh m f) l = 2 ^ m * f l := by
  induction m generalizing f l with
  | zero =>
    obtain rfl : l = 0 := by omega
    rw [walsh_zero, walsh_zero, pow_zero, one_mul]
  | succ m ih =>
    have hlower (k : Nat) := walsh_congr (fun j hj => walsh_succ_lower (m := m) hj f) k
    have hupper (k : Nat) := walsh_congr (fun j hj => walsh_succ_upper (m := m) hj f) k
    rcases Nat.lt_or_ge l (2 ^ m) with hside | hside
    · rw [walsh_succ_lower hside, hlower, hupper, walsh_add, walsh_sub, ih f hside]
      ring
    · obtain ⟨k, rfl⟩ := Nat.exists_eq_add_of_le hside
      have hk : k < 2 ^ m := by rw [pow_succ] at hl; omega
      rw [walsh_succ_upper hk, hlower, hupper, walsh_add, walsh_sub, ih (fun j => f (2 ^ m + j)) hk]
      ring

/-- The XOR convolution of the first n values of `f` and `f'` (42_fwht.md R185). -/
def xorSum (n : Nat) (f f' : Nat → R) (t : Nat) : R :=
  ∑ a ∈ Finset.range n, ∑ b ∈ Finset.range n, if a ^^^ b = t then f a * f' b else 0

/-- The Walsh sums of an XOR convolution are the products of the Walsh sums. -/
theorem walsh_xorSum (m : Nat) (f f' : Nat → R) (k : Nat) :
    walsh m (xorSum (2 ^ m) f f') k = walsh m f k * walsh m f' k := by
  have hcollect {a b : Nat} (ha : a ∈ Finset.range (2 ^ m)) (hb : b ∈ Finset.range (2 ^ m)) :
      ∑ t ∈ Finset.range (2 ^ m), walshSign R m t k * (if a ^^^ b = t then f a * f' b else 0) =
        (walshSign R m a k * f a) * (walshSign R m b k * f' b) := by
    have hmem : a ^^^ b < 2 ^ m :=
      Nat.xor_lt_two_pow (Finset.mem_range.1 ha) (Finset.mem_range.1 hb)
    simp only [mul_ite, mul_zero, Finset.sum_ite_eq, Finset.mem_range, hmem, if_true, walshSign_xor]
    ring
  calc walsh m (xorSum (2 ^ m) f f') k
      = ∑ a ∈ Finset.range (2 ^ m), ∑ b ∈ Finset.range (2 ^ m), ∑ t ∈ Finset.range (2 ^ m),
          walshSign R m t k * (if a ^^^ b = t then f a * f' b else 0) := by
        simp only [walsh, xorSum, Finset.mul_sum]
        rw [Finset.sum_comm]
        exact Finset.sum_congr rfl fun a _ => Finset.sum_comm
    _ = ∑ a ∈ Finset.range (2 ^ m), ∑ b ∈ Finset.range (2 ^ m),
          (walshSign R m a k * f a) * (walshSign R m b k * f' b) :=
        Finset.sum_congr rfl fun a ha => Finset.sum_congr rfl fun b hb => hcollect ha hb
    _ = walsh m f k * walsh m f' k := (Finset.sum_mul_sum _ _ _ _).symm

end

/-! ### The stages as Walsh sums -/

theorem elem_zipWith (f : Residue → Residue → Residue) {x y : List Residue} {t : Nat}
    (hx : t < x.length) (hy : t < y.length) :
    elem (List.zipWith f x y) t = f (elem x t) (elem y t) := by
  rw [elem_eq_getElem _ t (by rw [List.length_zipWith]; omega), elem_eq_getElem _ t hx,
    elem_eq_getElem _ t hy]
  exact List.getElem_zipWith

/-- One stage, pair by pair: sums in the lower half of a block, differences in the upper half
(42_fwht.md R181). -/
theorem elem_fwhtStage {m s : Nat} {a : List Residue} (hs : s < m) (ha : a.length = 2 ^ m)
    {block j : Nat} (hblock : block < 2 ^ (m - (s + 1))) (hj : j < 2 ^ s) :
    (elem (fwhtStage m s a) (block * 2 ^ (s + 1) + j),
      elem (fwhtStage m s a) (block * 2 ^ (s + 1) + j + 2 ^ s)) =
    (addMod (elem a (block * 2 ^ (s + 1) + j)) (elem a (block * 2 ^ (s + 1) + j + 2 ^ s)),
      subMod (elem a (block * 2 ^ (s + 1) + j)) (elem a (block * 2 ^ (s + 1) + j + 2 ^ s))) := by
  have hsize : 2 ^ (m - (s + 1)) * (2 * 2 ^ s) = a.length := (pow_split m s hs).trans ha.symm
  have hfit : block * (2 * 2 ^ s) + 2 * 2 ^ s ≤ a.length := by
    rw [← Nat.succ_mul, ← hsize]
    exact Nat.mul_le_mul_right _ hblock
  have hlo : j < (lowerHalf (2 ^ s) block a).length := by rwa [lowerHalf_length (by omega)]
  have hhi : j < (upperHalf (2 ^ s) block a).length := by rwa [upperHalf_length hfit]
  rw [fwhtStage, pow_succ' 2 s, elem_overBlocks fwhtBlock_length hsize.le hblock hj, fwhtBlock,
    elem_zipWith _ hlo hhi, elem_zipWith _ hlo hhi, elem_lowerHalf block a hj,
    elem_upperHalf block a hj]

/-- One stage in the field, its blocks counted by halves (42_fwht.md R181). -/
theorem toZMod_elem_fwhtStage {m s : Nat} {a : List Residue} (hs : s < m) (ha : a.length = 2 ^ m)
    {block j : Nat} (hblock : block < 2 ^ (m - (s + 1))) (hj : j < 2 ^ s) :
    toZMod (elem (fwhtStage m s a) (2 * block * 2 ^ s + j)) =
      toZMod (elem a (2 * block * 2 ^ s + j)) + toZMod (elem a ((2 * block + 1) * 2 ^ s + j)) ∧
    toZMod (elem (fwhtStage m s a) ((2 * block + 1) * 2 ^ s + j)) =
      toZMod (elem a (2 * block * 2 ^ s + j)) - toZMod (elem a ((2 * block + 1) * 2 ^ s + j)) := by
  have hlower : block * 2 ^ (s + 1) + j = 2 * block * 2 ^ s + j := by ring
  have hupper : 2 * block * 2 ^ s + j + 2 ^ s = (2 * block + 1) * 2 ^ s + j := by ring
  have hpair := elem_fwhtStage hs ha hblock hj
  rw [hlower, hupper] at hpair
  obtain ⟨hsum, hdiff⟩ := Prod.mk.inj hpair
  rw [hsum, hdiff]
  exact ⟨toZMod_addMod _ _, toZMod_subMod _ _⟩

/-- The first t stages of the transform, half blocks 1, 2, .. 2^(t-1) (42_fwht.md R181). -/
def firstFwhtStages (m t : Nat) (x : List Residue) : List Residue :=
  (List.range t).foldl (fun a s => fwhtStage m s a) x

theorem firstFwhtStages_all (m : Nat) (x : List Residue) :
    firstFwhtStages m m x = fwhtStages m x := rfl

theorem firstFwhtStages_succ (m t : Nat) (x : List Residue) :
    firstFwhtStages m (t + 1) x = fwhtStage m t (firstFwhtStages m t x) := by
  rw [firstFwhtStages, List.range_succ, List.foldl_append]
  rfl

theorem firstFwhtStages_length {m t : Nat} (ht : t ≤ m) {x : List Residue} (hx : x.length = 2 ^ m) :
    (firstFwhtStages m t x).length = 2 ^ m :=
  foldl_range_keeps (fun a => a.length = 2 ^ m) _ t
    (fun a s hs ha => fwhtStage_length m s a (hs.trans_le ht) ha) x hx

/-- After t stages each block of 2^t elements holds the Walsh sums of the input's same block. -/
theorem elem_firstFwhtStages {m t : Nat} (ht : t ≤ m) {x : List Residue} (hx : x.length = 2 ^ m)
    {block k : Nat} (hblock : block < 2 ^ (m - t)) (hk : k < 2 ^ t) :
    toZMod (elem (firstFwhtStages m t x) (block * 2 ^ t + k)) =
      walsh t (fun j => toZMod (elem x (block * 2 ^ t + j))) k := by
  induction t generalizing block k with
  | zero =>
    obtain rfl : k = 0 := by omega
    rw [walsh_zero]
    rfl
  | succ t ih =>
    have hblocks : 2 ^ (m - t) = 2 * 2 ^ (m - (t + 1)) := by
      rw [← pow_succ', show m - t = m - (t + 1) + 1 by omega]
    have hlower (i : Nat) : block * 2 ^ (t + 1) + i = 2 * block * 2 ^ t + i := by ring
    have hupper (i : Nat) : 2 * block * 2 ^ t + (2 ^ t + i) = (2 * block + 1) * 2 ^ t + i := by ring
    have hstage {i : Nat} (hi : i < 2 ^ t) :=
      toZMod_elem_fwhtStage ht (firstFwhtStages_length (Nat.le_of_succ_le ht) hx) hblock hi
    have hfirst {i : Nat} (hi : i < 2 ^ t) := ih (by omega) (block := 2 * block) (by omega) hi
    have hsecond {i : Nat} (hi : i < 2 ^ t) := ih (by omega) (block := 2 * block + 1) (by omega) hi
    simp only [firstFwhtStages_succ, hlower]
    rcases Nat.lt_or_ge k (2 ^ t) with hside | hside
    · obtain ⟨hsum, -⟩ := hstage hside
      rw [hsum, hfirst hside, hsecond hside, walsh_succ_lower hside]
      simp only [hupper]
    · obtain ⟨i, rfl⟩ := Nat.exists_eq_add_of_le hside
      have hi : i < 2 ^ t := by rw [pow_succ] at hk; omega
      obtain ⟨-, hdiff⟩ := hstage hi
      rw [hupper, hdiff, hfirst hi, hsecond hi, walsh_succ_upper hi]
      simp only [hupper]

/-- After all stages the one block holds the Walsh sums of the whole input. -/
theorem elem_fwhtStages {m : Nat} {x : List Residue} (hx : x.length = 2 ^ m) {k : Nat}
    (hk : k < 2 ^ m) :
    toZMod (elem (fwhtStages m x) k) = walsh m (fun j => toZMod (elem x j)) k := by
  have hall := elem_firstFwhtStages le_rfl hx (block := 0) (by simp) hk
  simpa only [firstFwhtStages_all, Nat.zero_mul, Nat.zero_add] using hall

/-- The closed form in the field, in both directions (42_fwht.md R183). -/
theorem elem_fwhtSeq {m : Nat} (d : Dir) {x : List Residue} (hx : x.length = 2 ^ m) {k : Nat}
    (hk : k < 2 ^ m) :
    toZMod (elem (fwhtSeq m d x) k) = dirScale m d * walsh m (fun j => toZMod (elem x j)) k := by
  cases d with
  | forward => rw [fwhtSeq, dirScale, one_mul, elem_fwhtStages hx hk]
  | inverse =>
    rw [fwhtSeq, dirScale, elem_scaleSeq _ ((fwhtStages_length m x hx).symm ▸ hk), toZMod_mulMod,
      elem_fwhtStages hx hk, toZMod_modInv, mul_comm]

/-! ### Closed form of the FWHT -/

theorem toZMod_intResidue (z : Int) : toZMod (intResidue z) = (z : ZMod Q) := by
  have hnonneg : 0 ≤ z % (Q : Int) := Int.emod_nonneg z (by decide)
  rw [intResidue, toZMod_toResidue, ← Int.cast_natCast, Int.toNat_of_nonneg hnonneg, ZMod.intCast_mod]

/-- The signed sum of the rule is the Walsh sum (42_fwht.md R183). -/
theorem intCast_walshSum (m : Nat) (x : List Residue) (k : Nat) :
    (walshSum m x k : ZMod Q) = walsh m (fun j => toZMod (elem x j)) k := by
  simp [walshSum, walsh, walshSign, toZMod]

theorem natCast_sum_val {N : Nat} {x : List Residue} (hx : x.length = N) :
    (((x.map Fin.val).sum : Nat) : ZMod Q) = ∑ j ∈ Finset.range N, toZMod (elem x j) := by
  subst hx
  rw [← Fin.sum_univ_fun_getElem, Nat.cast_sum, Finset.sum_range]
  exact Finset.sum_congr rfl fun j _ => by rw [elem_eq_getElem x j j.isLt]; rfl

/-- Settles O30, by `elem_fwhtSeq`; for index 0 no term of the sum has the sign -1. -/
theorem fwhtClosedForm : Obligations.FwhtClosedForm := by
  intro m x hx
  refine ⟨fun k hk => ⟨toZMod_injective ?_, toZMod_injective ?_⟩, toZMod_injective ?_⟩
  · rw [elem_fwhtSeq .forward hx hk, toZMod_intResidue, intCast_walshSum, dirScale, one_mul]
  · rw [elem_fwhtSeq .inverse hx hk, toZMod_mulMod, toZMod_modInv, toZMod_intResidue,
      intCast_walshSum, dirScale]
  · rw [elem_fwhtSeq .inverse hx (Nat.two_pow_pos m), toZMod_mulMod, toZMod_modInv, toZMod_toResidue,
      walsh_zero_right, natCast_sum_val hx, dirScale]

/-! ### Round trip and convolution of the FWHT -/

/-- Q is odd, so no power of two is 0 modulo Q. -/
theorem natCast_two_pow_ne_zero (m : Nat) : ((2 ^ m : Nat) : ZMod Q) ≠ 0 := by
  have hcoprime : Nat.Coprime (2 ^ m) Q := Nat.Coprime.pow_left m (by decide)
  rw [Ne, ZMod.natCast_eq_zero_iff]
  exact fun hdvd => absurd (Nat.Coprime.eq_one_of_dvd hcoprime.symm hdvd) (by decide)

/-- Two transforms in a row multiply by the length and by the factors of their directions. -/
theorem elem_fwhtSeq_fwhtSeq {m : Nat} (d d' : Dir) {x : List Residue} (hx : x.length = 2 ^ m) {l : Nat}
    (hl : l < 2 ^ m) :
    toZMod (elem (fwhtSeq m d' (fwhtSeq m d x)) l) =
      dirScale m d' * dirScale m d * ((2 ^ m : Nat) : ZMod Q) * toZMod (elem x l) := by
  rw [elem_fwhtSeq d' (fwhtSeq_length m d x hx) hl, walsh_congr fun j hj => elem_fwhtSeq d hx hj,
    walsh_mul_left, walsh_walsh m _ hl]
  push_cast
  ring

/-- Two directions undo each other when one of them divides by the length. -/
theorem fwhtSeq_fwhtSeq {m : Nat} {d d' : Dir}
    (hscale : dirScale m d' * dirScale m d * ((2 ^ m : Nat) : ZMod Q) = 1) {x : List Residue}
    (hx : x.length = 2 ^ m) : fwhtSeq m d' (fwhtSeq m d x) = x :=
  eq_of_toZMod_elem (fwhtSeq_length m d' _ (fwhtSeq_length m d x hx)) hx fun l hl => by
    rw [elem_fwhtSeq_fwhtSeq d d' hx hl, hscale, one_mul]

theorem elem_map (f : Residue → Residue) {x : List Residue} {t : Nat} (ht : t < x.length) :
    elem (x.map f) t = f (elem x t) := by
  rw [elem_eq_getElem _ t (by simpa using ht), elem_eq_getElem x t ht]
  exact List.getElem_map f

/-- Settles O31: the orders differ in which direction has the factor 1/N, and forward twice has none. -/
theorem fwhtRoundTrip : Obligations.FwhtRoundTrip := by
  intro m x hx
  have := fact_prime_Q
  have hN := natCast_two_pow_ne_zero m
  refine ⟨fwhtSeq_fwhtSeq ?_ hx, fwhtSeq_fwhtSeq ?_ hx, ?_⟩
  · rw [dirScale, dirScale, mul_one, inv_mul_cancel₀ hN]
  · rw [dirScale, dirScale, one_mul, inv_mul_cancel₀ hN]
  · refine eq_of_toZMod_elem (fwhtSeq_length m .forward _ (fwhtSeq_length m .forward x hx))
      (by rw [List.length_map, hx]) fun l hl => ?_
    rw [elem_fwhtSeq_fwhtSeq .forward .forward hx hl, elem_map _ (hx.symm ▸ hl), toZMod_mulMod,
      toZMod_toResidue, dirScale, one_mul, one_mul]

theorem xorConv_length (N : Nat) (x y : List Residue) : (xorConv N x y).length = N := by
  simp [xorConv]

theorem toZMod_elem_xorConv {N t : Nat} (x y : List Residue) (ht : t < N) :
    toZMod (elem (xorConv N x y) t) =
      xorSum N (fun a => toZMod (elem x a)) (fun b => toZMod (elem y b)) t := by
  rw [xorConv, elem_map_range _ _ _ ht, toZMod_toResidue]
  simp only [xorSum, toZMod, Nat.cast_sum, Nat.cast_ite, Nat.cast_mul, Nat.cast_zero]

/-- Settles O32, by `walsh_xorSum` element by element. -/
theorem xorConvolution : Obligations.XorConvolution := by
  intro m x y hx hy
  have hz := xorConv_length (2 ^ m) x y
  have hlen {z : List Residue} (h : z.length = 2 ^ m) := fwhtSeq_length m .forward z h
  refine eq_of_toZMod_elem (N := 2 ^ m) (by rw [mulSeq_length, hlen hx, hlen hy, min_self]) (hlen hz)
    fun k hk => ?_
  rw [elem_mulSeq ((hlen hx).symm ▸ hk) ((hlen hy).symm ▸ hk), toZMod_mulMod,
    elem_fwhtSeq .forward hx hk, elem_fwhtSeq .forward hy hk, elem_fwhtSeq .forward hz hk,
    walsh_congr fun t ht => toZMod_elem_xorConv x y ht, walsh_xorSum, dirScale, one_mul, one_mul,
    one_mul]

end Sys2Proof.Machine

/-! Proofs for 43_orchestrator.md: the phase table, construction, the commands of the pipeline and whole
computations. What COMPUTE does to a sequence is read off `pipelineSeq`; where a matrix read fails, the
rows before it are followed by `rowsFused` (20_memory.md) and the rest of the loop is not run. -/

namespace Sys2Proof.Machine

/-! ### The completion of a command -/

theorem exec_done {i : Instr} {s u : State} (hp : phaseAllowed i s.phase = true)
    (hdone : bodyOf i s = .done u) : exec i s = .next (completed u) :=
  (exec_eq i s).trans (runCommand_done hp hdone)

theorem exec_raise {i : Instr} {s u : State} {c : ErrCode} (hp : phaseAllowed i s.phase = true)
    (hraise : bodyOf i s = .raise c u) : exec i s = .next (completedFault c u) :=
  (exec_eq i s).trans (runCommand_raise hp hraise)

/-! ### The phase table -/

/-- The faults the pseudocode of a command raises: those of its row in 60_exceptions.md R240 but for SEQ,
which only the phase test raises (44_system.md R231). -/
def ownFault (i : Instr) (c : ErrCode) : Prop := c ∈ raisedBy i ∧ c ≠ .seq

/-- COMPUTE raises PRECOND in its CONFIG and MATERR in one of its FUSEROWs (43_orchestrator.md R210). -/
theorem computeBody_ownFault (z : SizeSel) (s : State) :
    (computeBody z s).Post (fun u => sameFaultRecord s u) fun c _ => ownFault (.compute z) c :=
  have hprecond : ownFault (.compute z) .precond := ⟨by simp [raisedBy], by simp⟩
  have hmaterr : ownFault (.compute z) .materr := ⟨by simp [raisedBy], by simp⟩
  (computeBody_post (I := KeepsOutside s) z s
    (fun n m _ _ _ => KeepsOutside.construct n m s) hprecond
    (fun u hu _ => fuserowBody_post u
      (fun row psi reads => hu.trans (KeepsOutside.fuserow u row psi reads)) fun _ => hmaterr)
    (fun u hu _ => (mutateBody_keepsOutside u).imp (fun _ => hu.trans) fun _ _ h => h)
    (fun u hu _ => (extractBody_keepsOutside u).imp (fun _ => hu.trans) fun _ _ h => h)).imp
    (fun _ hu => hu.1.record) fun _ _ h => h

/-- The pseudocode of a command but SRESET leaves the fault record alone where it is done, and raises
none but the command's own faults. -/
theorem bodyOf_ownFault {i : Instr} (hi : i ≠ .sreset) (s : State) :
    (bodyOf i s).Post (fun u => sameFaultRecord s u) fun c _ => ownFault i c := by
  have hsame : sameFaultRecord s s := ⟨rfl, rfl, rfl⟩
  cases i with
  | nop | modpow | pmul | mutate => exact hsame
  | modinv => exact modinvBody_post s (fun _ => hsame) fun _ => ⟨by simp [raisedBy], by simp⟩
  | bitrev b | nttbf b _ | scale b => cases b <;> exact hsame
  | ntt b d => exact nttBody_post b d s fun x => by cases b <;> exact hsame
  | fwht b d => exact fwhtBody_post b d s fun x => by cases b <;> exact hsame
  | config z =>
    exact configBody_post z s (fun n m _ _ _ => (KeepsOutside.construct n m s).record)
      ⟨by simp [raisedBy], by simp⟩
  | encrow => exact encrowBody_post s (fun _ _ => hsame) fun _ => ⟨by simp [raisedBy], by simp⟩
  | fuserow =>
    exact fuserowBody_post s (fun row psi reads => (KeepsOutside.fuserow s row psi reads).record)
      fun _ => ⟨by simp [raisedBy], by simp⟩
  | extract => exact extractBody_post s fun _ => hsame
  | compute z => exact computeBody_ownFault z s
  | sreset => exact absurd rfl hi

/-- Where the phase is allowed, a completion that ends with SEQ found it recorded. -/
theorem errcode_seq_of_allowed {i : Instr} {s t : State} (hp : phaseAllowed i s.phase = true)
    (h : exec i s = .next t) (hseq : t.errcode = .seq) : s.errcode = .seq := by
  by_cases hi : i = .sreset
  · subst hi
    obtain rfl := Host.Outcome.next.inj h
    exact absurd hseq (by simp [finish, recoverFault])
  have hown := bodyOf_ownFault hi s
  rw [exec_eq] at h
  rcases runCommand_cases i (bodyOf i) s with
    ⟨hno, _⟩ | ⟨_, ⟨u, hu, hrun⟩ | ⟨c, u, hu, hrun⟩ | ⟨_, hrun⟩⟩
  · exact absurd (hno.symm.trans hp) (by decide)
  all_goals obtain rfl := Host.Outcome.next.inj (hrun.symm.trans h)
  · rw [hu] at hown
    obtain ⟨_, hcode, _⟩ := hown
    exact hcode.symm.trans hseq
  · rw [hu] at hown
    obtain ⟨_, hne⟩ := hown
    exact absurd hseq hne
  · exact hseq

/-- Settles O9: the table is the phase test of `runCommand`, and no pseudocode raises SEQ itself. -/
theorem phaseTable : Obligations.PhaseTable := by
  intro i s
  rw [← phaseAllowed_iff]
  refine ⟨fun hno => ?_, fun hp t h => errcode_seq_of_allowed hp h⟩
  rw [exec_eq, runCommand, if_neg hno]
  rfl

/-! ### Sizing and the exponent -/

/-- The search for the length finds one: 2^14 reaches every clamped size source
(43_orchestrator.md R191). -/
theorem sizeLog_found (src : Nat) :
    ((List.range (Config.logCeil + 1)).find? fun m => max 1 (min src Config.ceil) ≤ 2 ^ m) =
      some (sizeLog src) := by
  have hfound : ((List.range (Config.logCeil + 1)).find? fun m =>
      max 1 (min src Config.ceil) ≤ 2 ^ m).isSome := by
    rw [List.find?_isSome]
    exact ⟨14, by decide, decide_eq_true (max_le (by decide) (min_le_right _ _))⟩
  obtain ⟨m, hm⟩ := Option.isSome_iff_exists.1 hfound
  rw [sizeLog, hm, Option.getD_some]

theorem le_two_pow_sizeLog (src : Nat) : max 1 (min src 16384) ≤ 2 ^ sizeLog src := by
  obtain ⟨hreach, _⟩ := List.find?_range_eq_some.1 (sizeLog_found src)
  exact of_decide_eq_true hreach

/-- The search takes the first length that reaches the clamped size source. -/
theorem sizeLog_le_of_le {src p : Nat} (hp : max 1 (min src 16384) ≤ 2 ^ p) : sizeLog src ≤ p := by
  obtain ⟨_, _, hfirst⟩ := List.find?_range_eq_some.1 (sizeLog_found src)
  by_contra hlt
  have hshort := hfirst p (not_le.1 hlt)
  rw [Bool.not_eq_true', decide_eq_false_iff_not] at hshort
  exact hshort hp

/-- Settles O33: the length is reached at 14 at the latest, and powers of two grow with the exponent. -/
theorem sizingRule : Obligations.SizingRule := fun src =>
  ⟨sizeLog src, sizeLog_le src, rfl, rfl, le_two_pow_sizeLog src,
    fun _ hp => Nat.pow_le_pow_right two_pos (sizeLog_le_of_le hp)⟩

theorem kExp_eq (n m : Nat) : kExp n m = (6 * n * m + 4) / 5 := rfl

theorem kExp_zero_left (m : Nat) : kExp 0 m = 0 := by rw [kExp_eq, Nat.mul_zero, Nat.zero_mul]

theorem kExp_zero_right (n : Nat) : kExp n 0 = 0 := by rw [kExp_eq, Nat.mul_zero]

/-- Settles O34: the rational is the fraction 6nm / 5, whose ceiling division of integers computes. -/
theorem mutationExponent : Obligations.MutationExponent := by
  refine ⟨fun n m => ⟨?_, kExp_eq n m⟩, by decide, fun n => ⟨kExp_zero_right n, kExp_zero_left n⟩⟩
  have hfraction : (n : ℚ) * m * (6 / 5) = ((6 * n * m : Nat) : ℚ) / ((5 : Nat) : ℚ) := by
    push_cast
    ring
  rw [hfraction, Rat.ceil_natCast_div_natCast, kExp_eq]
  omega

/-! ### Construction -/

/-- What CONFIG writes, as one update (43_orchestrator.md R194). -/
theorem construct_eq (n m : Nat) (s : State) :
    construct n m s =
      { constructRegs n m s with
        phase := if n = 0 then .fused else .fusion
        trace := if n = 0 then s.trace ++ [.phaseDone .fusion] else s.trace } := by
  rw [← construct_phase n m s, ← construct_trace n m s]
  unfold construct
  split <;> rfl

/-- Settles O35: every value construction writes fits its register. -/
theorem configCompletes : Obligations.ConfigCompletes := by
  intro s z hdim hroot n m
  have hn : n < 2 ^ 31 := dimension_toNat_lt s
  have hm : m ≤ 14 := sizeLog_le _
  have hdone := (configBody_done hdim hroot).trans (congrArg Body.done (construct_eq n m s))
  exact ⟨_, exec_done rfl hdone,
    toNat_ofNat_ncfg hn, toNat_ofNat_nlen hm, toNat_ofNat_logn hm, toNat_ofNat_kexp hn hm, rfl⟩

/-- CONFIG raises PRECOND, in the state it found, where a check of construction fails
(43_orchestrator.md R193, R194). -/
theorem configBody_precond {z : SizeSel} {s : State}
    (h : dimension s < 0 ∨ rootOk s.root (sizeN (sizeSource z (dimension s).toNat s)) = false) :
    configBody z s = .raise .precond s := by
  rcases configBody_cases z s with ⟨_, hraise⟩ | ⟨hdim, hroot, _⟩
  · exact hraise
  · rcases h with hneg | hbad
    · omega
    · exact absurd (hbad.symm.trans hroot) (by decide)

theorem modPow_modPow (b e f : Nat) : modPow (modPow b e).val f = modPow b (e * f) := by
  rw [modPow_eq b e, modPow_eq, modPow_eq, toResidue_eq_iff, toResidue_val, ← Nat.pow_mod, pow_mul]

/-- RootOk for every length from 2 on asks for the same power of the root, its half turn
(43_orchestrator.md R193). -/
theorem rootOk_of_half_turn {g : Residue} (hg : (modPow g.val ((Q - 1) / 2)).val = Q - 1) {m : Nat}
    (hdvd : 2 ^ m ∣ Q - 1) : rootOk g (2 ^ m) = true := by
  refine decide_eq_true ?_
  rcases Nat.eq_zero_or_pos m with rfl | hm
  · exact .inl rfl
  · have heven : 2 ∣ 2 ^ m := dvd_pow_self 2 hm.ne'
    have hexp : (Q - 1) / 2 ^ m * (2 ^ m / 2) = (Q - 1) / 2 := by
      rw [Nat.div_mul_div_comm hdvd heven, Nat.mul_comm, Nat.mul_div_mul_left _ _ (Nat.two_pow_pos m)]
    exact .inr ⟨Nat.mod_eq_zero_of_dvd hdvd, by rw [stageTwiddle, modPow_modPow, hexp, hg]⟩

/-- The default root, the model's presumed 3 (log 1), suits every length: Q - 1 is a multiple of 2^14. -/
theorem rootOk_defaultRoot {m : Nat} (hm : m ≤ 14) : rootOk Config.defaultRoot (2 ^ m) = true :=
  rootOk_of_half_turn (by decide) ((pow_dvd_pow 2 hm).trans (by decide))

/-- Settles O36: COMPUTE begins with CONFIG, and nothing runs after its fault. -/
theorem constructionPreconditionFaults : Obligations.ConstructionPreconditionFaults := by
  refine ⟨fun s z h => ?_, fun _ hm => rootOk_defaultRoot hm⟩
  have hconfig := configBody_precond h
  have hcompute : computeBody z s = .raise .precond s := by
    rw [computeBody, hconfig, andThen_raise, andThen_raise, andThen_raise]
  exact ⟨exec_raise rfl hconfig, exec_raise rfl hcompute⟩

/-! ### The commands of the three phases -/

/-- Settles O39: a configured phase allows PMUL, whose product `elem_mulSeq` describes. -/
theorem pmulCompletes : Obligations.PmulCompletes := by
  intro s hphase hrow hpsi
  refine ⟨mulSeq s.psi s.row, by rw [mulSeq_length, hrow, hpsi, min_self], fun t ht => ?_,
    exec_configured rfl hphase rfl⟩
  rw [elem_mulSeq (hpsi.symm ▸ ht) (hrow.symm ▸ ht), mulMod_val]

/-- Settles O40: the row is fused as `fuserowBody_done` says, and counting it does not wrap. -/
theorem fuserowCompletes : Obligations.FuserowCompletes := by
  intro s M hphase hnlen hlt hreads i n
  have hallowed : phaseAllowed .fuserow s.phase = true := by rw [hphase]; rfl
  have hbound := s.ncfg.isLt
  have hnext : s.rowcnt + 1 = BitVec.ofNat 31 (i + 1) :=
    BitVec.eq_of_toNat_eq (by bv_omega)
  have hlast : s.rowcnt + 1 = s.ncfg ↔ i + 1 = n := by
    rw [hnext, ← BitVec.toNat_inj, toNat_ofNat_ncfg (by omega)]
  rw [exec_done hallowed (fuserowBody_done hnlen hreads), advanceRow_eq]
  simp only [hlast, hphase]
  rw [hnext]
  rfl

/-- Settles O41: MUTATE's ModPow is the power, also for the exponent 0. -/
theorem mutateCompletes : Obligations.MutateCompletes := by
  intro s hphase
  have hallowed : phaseAllowed .mutate s.phase = true := by rw [hphase]; rfl
  simp only [← modPow_eq]
  exact exec_done hallowed rfl

/-- Settles O42: element 0 of the inverse transform is the mean, by the closed form. -/
theorem extractCompletes : Obligations.ExtractCompletes := by
  intro s hphase hnlen hpsi
  have hallowed : phaseAllowed .extract s.phase = true := by rw [hphase]; rfl
  obtain ⟨_, hmean⟩ := fwhtClosedForm s.logn.toNat s.psi (hpsi.trans hnlen)
  rw [exec_done hallowed (extractBody_done hnlen), hmean, ← hnlen]

/-! ### Buckets -/

/-- The factor 31 is odd, so multiplying by it keeps different residues modulo 2^m apart. -/
theorem stride_cancel {m a b : Nat} (h : a * Config.stride ≡ b * Config.stride [MOD 2 ^ m]) :
    a ≡ b [MOD 2 ^ m] :=
  Nat.ModEq.cancel_right_of_coprime (Nat.Coprime.pow_left m (by decide)) h

/-- Two entries share a bucket exactly when their places in the matrix agree modulo the length. -/
theorem bucket_eq_iff {i i' j j' n m : Nat} :
    bucket i j n (2 ^ m) = bucket i' j' n (2 ^ m) ↔ i * n + j ≡ i' * n + j' [MOD 2 ^ m] :=
  ⟨stride_cancel, fun h => h.mul_right Config.stride⟩

/-- The place of an entry is below n * n, so a length that large tells the places apart. -/
theorem place_lt {i j n : Nat} (hi : i < n) (hj : j < n) : i * n + j < n * n :=
  calc i * n + j < i * n + n := Nat.add_lt_add_left hj _
    _ = (i + 1) * n := (Nat.succ_mul i n).symm
    _ ≤ n * n := Nat.mul_le_mul_right n hi

/-- Settles O48: within a row the places differ by what the columns do; a place is a quotient and a
remainder by n. -/
theorem indexCollisions : Obligations.IndexCollisions := by
  refine ⟨fun i n m j j' => ?_, fun n m i i' j j' hN hi hi' hj hj' h => ?_⟩
  · rw [bucket_eq_iff]
    exact ⟨Nat.ModEq.add_left_cancel' _, fun h => Nat.ModEq.add_left _ h⟩
  · have hplace : i * n + j = i' * n + j' :=
      Nat.ModEq.eq_of_lt_of_lt (bucket_eq_iff.1 h) ((place_lt hi hj).trans_le hN)
        ((place_lt hi' hj').trans_le hN)
    have hcolumn (a b : Nat) (hb : b < n) : (a * n + b) % n = b := by
      rw [Nat.mul_comm, Nat.mul_add_mod, Nat.mod_eq_of_lt hb]
    have hj : j = j' := by rw [← hcolumn i j hj, hplace, hcolumn i' j' hj']
    subst hj
    exact ⟨Nat.eq_of_mul_eq_mul_right (by omega) (Nat.add_right_cancel hplace), rfl⟩

/-! ### A row that cannot be read -/

/-- An error at column c, after data in the columns before it, ends the reading of a row with that read
(60_exceptions.md R246). -/
theorem readRow_of_error {s : State} {i c : Nat} {M : Nat → Word} (hc : c < s.ncfg.toNat)
    (hreads : rowReads s s.mcfg s.ncfg.toNat i c M)
    (herror : matRead s (matAddr s.mcfg s.ncfg.toNat i c) = .error) :
    readRow s i = .failed (c + 1) := by
  have hloop := encodeLoop_error (fun j => matRead s (matAddr s.mcfg s.ncfg.toNat i j))
    (fun j => bucket i j s.ncfg.toNat s.nlen.toNat) M c s.ncfg.toNat 0
    (List.replicate s.nlen.toNat 0) hc (fun j hj => by simpa using hreads j hj) (by simpa using herror)
  rwa [Nat.zero_add] at hloop

theorem encrowBody_of_error {s : State} {c : Nat} {M : Nat → Word} (hc : c < s.ncfg.toNat)
    (hreads : rowReads s s.mcfg s.ncfg.toNat s.rowcnt.toNat c M)
    (herror : matRead s (matAddr s.mcfg s.ncfg.toNat s.rowcnt.toNat c) = .error) :
    encrowBody s = .raise .materr (encodeFailed s (c + 1)) := by
  simp only [encrowBody, readRow_of_error hc hreads herror]
  rfl

/-- FUSEROW raises what its ENCROW raises, before it has changed anything of its own. -/
theorem fuserowBody_of_error {s : State} {c : Nat} {M : Nat → Word} (hc : c < s.ncfg.toNat)
    (hreads : rowReads s s.mcfg s.ncfg.toNat s.rowcnt.toNat c M)
    (herror : matRead s (matAddr s.mcfg s.ncfg.toNat s.rowcnt.toNat c) = .error) :
    fuserowBody s = .raise .materr (encodeFailed s (c + 1)) := by
  rw [fuserowBody, encrowBody_of_error hc hreads herror, andThen_raise, andThen_raise, andThen_raise]

/-! ### COMPUTE with a matrix error -/

/-- The loop of COMPUTE can be cut after any row. -/
theorem fuseRows_add (j k : Nat) (s : State) :
    fuseRows (j + k) s = (fuseRows j s).andThen (fuseRows k) := by
  induction j generalizing s with
  | zero => rw [Nat.zero_add]; rfl
  | succ j ih =>
    rw [Nat.succ_add, fuseRows, fuseRows]
    cases fuserowBody s with
    | done u => exact ih u
    | raise c u => rfl
    | stall => rfl

/-- The state COMPUTE leaves before its completion ends, where column `c` of row `r` cannot be read: the
construction and the rows before, free residues in ROW, and no read after the failing one
(43_orchestrator.md R210, 60_exceptions.md R246). -/
def computeFailed (M : Nat → Nat → Word) (n m r c : Nat) (s : State) : State :=
  { s with
    ncfg := BitVec.ofNat 31 n
    mcfg := s.mbase
    nlen := BitVec.ofNat 15 (2 ^ m)
    logn := BitVec.ofNat 4 m
    kexp := BitVec.ofNat 64 (kExp n m)
    rowcnt := BitVec.ofNat 31 r
    row := freeRow (constructRegs n m s)
    psi := fusedRows s.root n m r M
    result := 0
    phase := .fusion
    trace := s.trace ++ rowEvents r
    freeCount := s.freeCount + 1
    matReads := s.matReads ++ matrixAddrs s.mbase n r ++ (List.range (c + 1)).map (matAddr s.mbase n r) }

section
variable {s : State} {M : Nat → Nat → Word} {n m r c : Nat}

/-- COMPUTE's loop up to row `r`, which need not be the last. -/
theorem fuseRows_construct (hn : n < 2 ^ 31) (hm : m ≤ 14) :
    r ≤ n → (∀ i < r, rowReads s s.mbase n i n (M i)) →
      ∃ row, fuseRows r (construct n m s) = .done (rowsFused M n m r row s) := by
  induction r with
  | zero => exact fun _ _ => ⟨_, congrArg Body.done (construct_eq_rowsFused M n m s)⟩
  | succ r ih =>
    intro hr hreads
    obtain ⟨row, hrows⟩ := ih (by omega) fun i hi => hreads i (by omega)
    have hfused := fuserowBody_rowsFused hn hm hr (hreads r r.lt_succ_self) row
    exact ⟨_, by rw [fuseRows_add, hrows, andThen_done, fuseRows, hfused, andThen_done, fuseRows]⟩

/-- The FUSEROW that meets the error. -/
theorem fuserowBody_rowsFused_error (hn : n < 2 ^ 31) (hr : r < n) (hc : c < n)
    (hreads : rowReads s s.mbase n r c (M r)) (herror : matRead s (matAddr s.mbase n r c) = .error)
    (row : List Residue) :
    fuserowBody (rowsFused M n m r row s) = .raise .materr (computeFailed M n m r c s) := by
  have hncfg : (rowsFused M n m r row s).ncfg.toNat = n := toNat_ofNat_ncfg hn
  have hrowcnt : (rowsFused M n m r row s).rowcnt.toNat = r := toNat_ofNat_ncfg (hr.trans hn)
  have hraise := fuserowBody_of_error (s := rowsFused M n m r row s) (c := c) (M := M r)
    (by rwa [hncfg]) (by rw [hncfg, hrowcnt]; exact rowReads_congr rfl rfl rfl hreads)
    (by rw [hncfg, hrowcnt]; exact (matRead_congr s _ _ rfl rfl rfl).trans herror)
  rw [hraise, encodeFailed, hncfg, hrowcnt]
  have hrn : r ≠ n := hr.ne
  simp only [rowsFused, hrn, if_false, List.append_nil]
  rfl

/-- COMPUTE's loop after construction, up to the error. -/
theorem fuseRest_construct_error (hn : n < 2 ^ 31) (hm : m ≤ 14) (hr : r < n) (hc : c < n)
    (hrows : ∀ i < r, rowReads s s.mbase n i n (M i)) (hreads : rowReads s s.mbase n r c (M r))
    (herror : matRead s (matAddr s.mbase n r c) = .error) :
    fuseRest (construct n m s) = .raise .materr (computeFailed M n m r c s) := by
  obtain ⟨row, hfused⟩ := fuseRows_construct hn hm hr.le hrows
  have hleft : (construct n m s).ncfg.toNat - (construct n m s).rowcnt.toNat =
      r + ((n - (r + 1)) + 1) := by
    rw [construct_ncfg_toNat m s hn, construct_rowcnt, show (0 : BitVec 31).toNat = 0 from rfl]
    omega
  rw [fuseRest, hleft, fuseRows_add, hfused, andThen_done, fuseRows,
    fuserowBody_rowsFused_error hn hr hc hreads herror, andThen_raise]

end

/-- Settles O45: the fault of the loop is that of COMPUTE, since nothing runs after it. -/
theorem computeMatrixErrorFaults : Obligations.ComputeMatrixErrorFaults := by
  intro s z r c M hdim hr hc hroot hrows hreads herror n m
  have hn : n < 2 ^ 31 := dimension_toNat_lt s
  have hm : m ≤ 14 := sizeLog_le _
  have hnlen := toNat_ofNat_nlen hm
  have hcompute : computeBody z s = .raise .materr (computeFailed M n m r c s) := by
    rw [computeBody, configBody_done hdim hroot, andThen_done,
      fuseRest_construct_error hn hm hr hc hrows hreads herror, andThen_raise, andThen_raise]
  exact ⟨computeFailed M n m r c s, exec_raise rfl hcompute, toNat_ofNat_ncfg hn, hnlen,
    toNat_ofNat_logn hm, toNat_ofNat_kexp hn hm, toNat_ofNat_ncfg (hr.trans hn),
    (freeRow_length _).trans hnlen, rfl⟩

/-! ### Computations compared -/

/-- COMPUTE has taken `s` to `t`: the registers, PSI and the events, each a function of the dimension, the
size source, the root and the matrix alone, and no fault (43_orchestrator.md R209, R210). -/
structure Computed (n src : Nat) (M : Nat → Nat → Word) (s t : State) : Prop where
  nlen : t.nlen.toNat = sizeN src
  logn : t.logn.toNat = sizeLog src
  kexp : t.kexp.toNat = kExp n (sizeLog src)
  psi : t.psi = pipelineSeq s.root n src M
  result : t.result = elem (pipelineSeq s.root n src M) 0
  trace : t.trace = s.trace ++ computeEvents n
  record : sameFaultRecord s t

/-- The pipeline (O43), in the terms in which computations are compared. -/
theorem exec_compute_computed {s : State} {z : SizeSel} {n : Nat} {M : Nat → Nat → Word}
    (hdim : dimension s = n) (hroot : rootOk s.root (sizeN (sizeSource z n s)) = true)
    (hreads : ∀ i < n, rowReads s s.mbase n i n (M i)) :
    ∃ t, exec (.compute z) s = .next t ∧ Computed n (sizeSource z n s) M s t := by
  obtain rfl : (dimension s).toNat = n := by omega
  obtain ⟨u, hexec, _, hnlen, hlogn, hkexp, _, hu⟩ :=
    computeIsPipeline s z M (by omega) hroot hreads
  refine ⟨completed u, hexec, hnlen, hlogn, hkexp, ?_, ?_, ?_, ?_⟩
  · exact congrArg State.psi hu
  · exact congrArg State.result hu
  · exact congrArg State.trace hu
  · exact ⟨(congrArg State.err hu :), (congrArg State.errcode hu :), (congrArg State.faultcmd hu :)⟩

/-- Settles O47: all that `Computed` names is a function of what the two states have in common. -/
theorem computeIsDeterministic : Obligations.ComputeIsDeterministic := by
  intro s s' z M hndim htarget hroots hdim hroot hreads hreads'
  have hn : dimension s = (dimension s).toNat := by omega
  have hn' : dimension s' = (dimension s).toNat := by rw [← hn, dimension, hndim, dimension]
  have hsrc : sizeSource z (dimension s).toNat s' = sizeSource z (dimension s).toNat s := by
    cases z with
    | square => rfl
    | target => exact congrArg BitVec.toNat htarget
  obtain ⟨t, hexec, ht⟩ := exec_compute_computed hn hroot hreads
  obtain ⟨t', hexec', ht'⟩ := exec_compute_computed hn' (by rwa [hsrc, hroots]) hreads'
  rw [hsrc] at ht'
  refine ⟨t, t', computeEvents (dimension s).toNat, hexec, hexec',
    BitVec.eq_of_toNat_eq (ht.nlen.trans ht'.nlen.symm),
    BitVec.eq_of_toNat_eq (ht.logn.trans ht'.logn.symm),
    BitVec.eq_of_toNat_eq (ht.kexp.trans ht'.kexp.symm), ?_, ?_, ht.trace, ht'.trace⟩
  · rw [ht.psi, ht'.psi, hroots]
  · rw [ht.result, ht'.result, hroots]

/-! ### Edge cases -/

theorem fusedRows_length (g : Residue) (n m r : Nat) (M : Nat → Nat → Word) :
    (fusedRows g n m r M).length = 2 ^ m :=
  foldl_range_keeps (fun psi : List Residue => psi.length = 2 ^ m) _ r
    (fun psi i _ hpsi => by rw [fuseStep, mulSeq_length, nttSeq_length, hpsi, min_self]) _
    List.length_replicate

theorem toZMod_zero : toZMod 0 = 0 := Nat.cast_zero

theorem elem_zeros (N t : Nat) : elem (List.replicate N 0) t = 0 := by
  rcases Nat.lt_or_ge t N with ht | ht
  · exact elem_replicate N t 0 ht
  · exact List.getD_eq_default _ _ (by rwa [List.length_replicate])

theorem one_cons_zeros_length (m : Nat) :
    (1 :: List.replicate (2 ^ m - 1) (0 : Residue)).length = 2 ^ m := by
  rw [List.length_cons, List.length_replicate, Nat.sub_add_cancel Nat.one_le_two_pow]

/-- The forward FWHT of a one followed by zeros is all ones: only the term 0 counts, and its sign is +1
(42_fwht.md R183). -/
theorem fwhtSeq_forward_unit (m : Nat) :
    fwhtSeq m .forward (1 :: List.replicate (2 ^ m - 1) 0) = List.replicate (2 ^ m) 1 := by
  have hlen := one_cons_zeros_length m
  refine eq_of_toZMod_elem (fwhtSeq_length m .forward _ hlen) List.length_replicate fun k hk => ?_
  have hzero : ∀ j ∈ Finset.range (2 ^ m), j ≠ 0 →
      walshSign (ZMod Q) m j k * toZMod (elem (1 :: List.replicate (2 ^ m - 1) 0) j) = 0 := by
    intro j _ hne
    obtain ⟨j, rfl⟩ := Nat.exists_eq_succ_of_ne_zero hne
    rw [elem_cons_succ, elem_zeros, toZMod_zero, mul_zero]
  rw [elem_fwhtSeq .forward hlen hk, dirScale, one_mul, walsh,
    Finset.sum_eq_single 0 hzero fun hno => absurd (Finset.mem_range.2 (Nat.two_pow_pos m)) hno,
    walshSign_comm, walshSign_zero_right, one_mul, elem_replicate _ _ _ hk]
  rfl

/-- So the inverse FWHT of all ones is a one followed by zeros (43_orchestrator.md R211 (a)). -/
theorem fwhtSeq_inverse_ones (m : Nat) :
    fwhtSeq m .inverse (List.replicate (2 ^ m) 1) = 1 :: List.replicate (2 ^ m - 1) 0 := by
  obtain ⟨hback, _⟩ := fwhtRoundTrip m _ (one_cons_zeros_length m)
  rwa [fwhtSeq_forward_unit] at hback

/-- A computation whose exponent is 0 ends with a one followed by zeros, whatever its rows were
(43_orchestrator.md R206, R211). -/
theorem pipelineSeq_of_kExp_eq_zero (g : Residue) {n src : Nat} (M : Nat → Nat → Word)
    (hk : kExp n (sizeLog src) = 0) :
    pipelineSeq g n src M = 1 :: List.replicate (sizeN src - 1) 0 := by
  have hlen : (fuseAll g n (sizeLog src) M).length = 2 ^ sizeLog src := fusedRows_length _ _ _ _ _
  have hones : mutateSeq 0 (fuseAll g n (sizeLog src) M) = List.replicate (2 ^ sizeLog src) 1 := by
    simp only [mutateSeq, modPow_zero, List.map_const', hlen]
  rw [pipelineSeq, hk, hones, fwhtSeq_inverse_ones]
  rfl

/-- A row of zeros encodes to zeros. -/
theorem encodeRow_zeros (i n N : Nat) : encodeRow i n N (fun _ => 0) = List.replicate N 0 := by
  refine eq_of_toZMod_elem (encodeRow_length i n N _) List.length_replicate fun t ht => ?_
  have hsum : bucketSum i n N (fun _ => 0) t = 0 :=
    Finset.sum_eq_zero fun j _ => by split <;> rfl
  rw [elem_encodeRow i n _ ht, hsum, elem_zeros]
  rfl

/-- The NTT of zeros is zeros, its sums having no other terms (41_ntt.md R163). -/
theorem nttSeq_zeros {g : Residue} {m : Nat} (hroot : rootOk g (2 ^ m) = true) (d : Dir) :
    nttSeq g m d (List.replicate (2 ^ m) 0) = List.replicate (2 ^ m) 0 := by
  refine eq_of_toZMod_elem (nttSeq_length g m d _) List.length_replicate fun k hk => ?_
  simp only [elem_nttSeq (stageRoot_stageTwiddle hroot d) _ hk, elem_zeros, toZMod_zero, dft, zero_mul,
    Finset.sum_const_zero, mul_zero]

/-- So is the FWHT of zeros (42_fwht.md R183). -/
theorem fwhtSeq_zeros (m : Nat) (d : Dir) :
    fwhtSeq m d (List.replicate (2 ^ m) 0) = List.replicate (2 ^ m) 0 := by
  have hlen : (List.replicate (2 ^ m) (0 : Residue)).length = 2 ^ m := List.length_replicate
  refine eq_of_toZMod_elem (fwhtSeq_length m d _ hlen) hlen fun k hk => ?_
  simp only [elem_fwhtSeq d hlen hk, elem_zeros, toZMod_zero, walsh, mul_zero, Finset.sum_const_zero]

/-- Fusing a row of zeros makes PSI zero (43_orchestrator.md R211 (d)). -/
theorem fuseStep_zeros {g : Residue} {m : Nat} (hroot : rootOk g (2 ^ m) = true) (i n : Nat)
    {psi : List Residue} (hpsi : psi.length = 2 ^ m) :
    fuseStep g i n m (fun _ _ => 0) psi = List.replicate (2 ^ m) 0 := by
  rw [fuseStep, encodeRow_zeros, nttSeq_zeros hroot]
  refine eq_of_toZMod_elem (by rw [mulSeq_length, hpsi, List.length_replicate, min_self])
    List.length_replicate fun t ht => ?_
  rw [elem_mulSeq (hpsi.symm ▸ ht) (by rwa [List.length_replicate]), toZMod_mulMod, elem_zeros,
    toZMod_zero, mul_zero]

/-- A matrix of zeros with a row, and an exponent above 0, which keeps zeros: all of PSI ends as zeros
(43_orchestrator.md R211 (d)). -/
theorem pipelineSeq_zeros {g : Residue} {n src : Nat} (hroot : rootOk g (sizeN src) = true)
    (hn : 0 < n) (hk : 0 < kExp n (sizeLog src)) :
    pipelineSeq g n src (fun _ _ => 0) = List.replicate (sizeN src) 0 := by
  obtain ⟨r, rfl⟩ := Nat.exists_eq_succ_of_ne_zero hn.ne'
  have hfused : fuseAll g (r + 1) (sizeLog src) (fun _ _ => 0) =
      List.replicate (2 ^ sizeLog src) 0 :=
    (fusedRows_succ g (r + 1) (sizeLog src) r _).trans
      (fuseStep_zeros hroot r (r + 1) (fusedRows_length _ _ _ _ _))
  rw [pipelineSeq, hfused, mutateSeq, List.map_replicate, modPow_of_dvd hk rfl, fwhtSeq_zeros]
  rfl

/-- The length reaches n * n, so it is above 1 where n is, and the exponent is then above 0. -/
theorem kExp_pos {n : Nat} (hn : 2 ≤ n) : 0 < kExp n (sizeLog (n * n)) := by
  have hsquare : 2 * 2 ≤ n * n := Nat.mul_le_mul hn hn
  have hlog : sizeLog (n * n) ≠ 0 := fun hzero => by
    have hreach := le_two_pow_sizeLog (n * n)
    rw [hzero] at hreach
    omega
  have hprod : 0 < n * sizeLog (n * n) := Nat.mul_pos (by omega) (Nat.pos_of_ne_zero hlog)
  rw [kExp_eq, Nat.mul_assoc]
  omega

/-- From 129 rows on the square is clamped to the ceiling (43_orchestrator.md R211 (c)). -/
theorem sizeN_square_of_le {n : Nat} (hn : 129 ≤ n) : sizeN (n * n) = 16384 := by
  have hsquare : 129 * 129 ≤ n * n := Nat.mul_le_mul hn hn
  have hreach := le_two_pow_sizeLog (n * n)
  have hceil : 2 ^ sizeLog (n * n) ≤ 2 ^ 14 := Nat.pow_le_pow_right two_pos (sizeLog_le _)
  rw [sizeN]
  omega

/-- Settles O46: an exponent of 0 or a matrix of zeros decides the last sequence, as
`pipelineSeq_of_kExp_eq_zero` and `pipelineSeq_zeros` say. -/
theorem degenerateComputations : Obligations.DegenerateComputations := by
  refine ⟨fun s z hdim hroot => ?_, fun s e hdim hread => ?_, fun s hdim hroot hreads => ?_,
    fun s hdim => sizeN_square_of_le (by omega)⟩
  · obtain ⟨t, hexec, ht⟩ := exec_compute_computed (n := 0) (M := fun _ _ => 0) hdim hroot (by simp)
    have hpsi := pipelineSeq_of_kExp_eq_zero s.root (src := sizeSource z 0 s) (fun _ _ => 0)
      (kExp_zero_left _)
    exact ⟨t, hexec, by rw [ht.result, hpsi]; rfl, ht.record, by rw [ht.psi, hpsi]⟩
  · have hreads : ∀ i < 1, rowReads s s.mbase 1 i 1 fun _ => e := by
      intro i hi j hj
      obtain rfl : i = 0 := by omega
      obtain rfl : j = 0 := by omega
      rwa [matAddr, Nat.zero_mul, Nat.add_zero, BitVec.add_zero]
    obtain ⟨t, hexec, ht⟩ := exec_compute_computed (z := .square) (M := fun _ _ => e) hdim rfl
      hreads
    have hk : kExp 1 (sizeLog (1 * 1)) = 0 := by decide
    exact ⟨t, hexec, by rw [ht.result, sizeSource, pipelineSeq_of_kExp_eq_zero _ _ hk]; rfl, ht.record⟩
  · obtain ⟨t, hexec, ht⟩ := exec_compute_computed (n := (dimension s).toNat) (by omega) hroot hreads
    have hpsi := pipelineSeq_zeros hroot (by omega) (kExp_pos (by omega))
    exact ⟨t, hexec, by rw [ht.result, hpsi, elem_zeros], ht.record⟩

end Sys2Proof.Machine

/-! Proofs for 44_system.md: issue, the completion step, and the matrix read that is never answered. That
read is the one thing that keeps a command in flight: a pseudocode stalls at it (`fuserowBody_of_silent`)
and nowhere else (`bodyOf_stall`). -/

namespace Sys2Proof.Machine

/-! ### The completion of the latched command -/

theorem completion_legal {s : State} {i : Instr} (h : decode s.lcmd = some i) :
    completion s = exec i s := by rw [completion, h]

/-- The block takes its turn with the word that was latched, and with MAT as it was
(44_system.md R238). -/
theorem blockTurn_keeps {s u : State} (h : blockTurn s = some u) :
    u.lcmd = s.lcmd ∧ ∀ a, matRead u a = matRead s a := by
  rcases blockTurn_cases s u h with rfl | ⟨rest, _, rfl⟩
  · exact ⟨rfl, fun _ => rfl⟩
  · exact ⟨rfl, fun a => matRead_congr s _ a rfl rfl rfl⟩

/-- Settles O5: the block's turn is the completion step, which decodes the word latched at issue. -/
theorem stepRunsTheDecodedCommand : Obligations.StepRunsTheDecodedCommand := by
  intro s t i hbusy hturn hdecode
  obtain ⟨hlcmd, _⟩ := blockTurn_keeps hturn
  have hlegal : decode t.lcmd = some i := by rw [hlcmd, hdecode]
  exact ⟨(step_turn hbusy hturn).trans (completion_legal hlegal), blockTurn_cases s t hturn⟩

/-- Settles O49: NOP is allowed in every phase and its pseudocode is done at once. -/
theorem nopCompletes : Obligations.NopCompletes := fun _ => exec_done rfl rfl

/-! ### Issue -/

/-- A command word, zero-extended to the bus, is latched as it was, and is as good as it was while
ERR = 1 (10_state.md R37, 20_memory.md R95). -/
theorem regWrite_cmd_setWidth {s : State} {w : CmdWord} (h : s.err = false ∨ w = 0x3F) :
    regWrite s (w.setWidth 64) .cmd = some (issue w s) := by
  have hfits : (w.setWidth 64).toNat < 2 ^ 32 := by bv_omega
  have hback : (w.setWidth 64).setWidth 32 = w := by bv_omega
  have hadmitted : s.err = false ∨ w.setWidth 64 = 0x3F := h.imp_right fun hw => by rw [hw]; rfl
  rw [regWrite_cmd, if_pos ⟨hfits, hadmitted⟩, hback]

/-- Settles O57: CMD is at offset 0x08, and a write there while BUSY = 1 is held like any other. -/
theorem issueLatchesTheCommand : Obligations.IssueLatchesTheCommand := by
  intro s w rest hi
  refine ⟨fun hidle hok => ?_, fun hbusy => ?_⟩
  · exact step_write_admitted hidle hi Reg.cmd.offset_lt
      ((hostWrite_reg _ _ .cmd).trans (regWrite_cmd_setWidth hok))
  · exact step_held hbusy hi nofun (overtakes_write_eq_false Reg.cmd.offset_lt 64 _)

/-! ### A command stalls only at a read that is never answered -/

theorem encrowBody_stall {s : State} (h : encrowBody s = .stall) : ∃ a, matRead s a = .silent := by
  rcases encrowBody_cases s with ⟨_, _, _, henc⟩ | ⟨_, _, _, _, henc⟩ | ⟨hsilent, _⟩
  · cases henc.symm.trans h
  · cases henc.symm.trans h
  · exact hsilent

theorem fuserowBody_stall {s : State} (h : fuserowBody s = .stall) : ∃ a, matRead s a = .silent := by
  rcases fuserowBody_cases s with ⟨_, _, hfuse⟩ | ⟨_, _, _, hfuse⟩ | ⟨hsilent, _⟩
  · cases hfuse.symm.trans h
  · cases hfuse.symm.trans h
  · exact hsilent

/-- A fused row leaves MAT, its earlier contents and the counter alone, so reads return what they did. -/
theorem matRead_of_fuserowBody_done {s u : State} (h : fuserowBody s = .done u) (a : Word) :
    matRead u a = matRead s a := by
  rcases fuserowBody_cases s with ⟨_, _, hfuse⟩ | ⟨_, _, _, hfuse⟩ | ⟨_, hfuse⟩
  · obtain rfl := Body.done.inj (hfuse.symm.trans h)
    exact matRead_congr s _ a (advanceRow_mat _) (advanceRow_matOld _) (advanceRow_freeCount _)
  · cases hfuse.symm.trans h
  · cases hfuse.symm.trans h

theorem fuseRows_stall {k : Nat} {s : State} (h : fuseRows k s = .stall) :
    ∃ a, matRead s a = .silent := by
  induction k generalizing s with
  | zero => cases h
  | succ k ih =>
    rcases andThen_eq_stall h with hrow | ⟨u, hrow, hrest⟩
    · exact fuserowBody_stall hrow
    · obtain ⟨a, ha⟩ := ih hrest
      exact ⟨a, (matRead_of_fuserowBody_done hrow a).symm.trans ha⟩

theorem configBody_ne_stall (z : SizeSel) (s : State) : configBody z s ≠ .stall := by
  rcases configBody_cases z s with ⟨_, hcfg⟩ | ⟨_, _, hcfg⟩ <;> rw [hcfg] <;> nofun

theorem matRead_of_configBody_done {z : SizeSel} {s u : State} (h : configBody z s = .done u)
    (a : Word) : matRead u a = matRead s a := by
  rcases configBody_cases z s with ⟨_, hcfg⟩ | ⟨_, _, hcfg⟩
  · cases hcfg.symm.trans h
  · obtain rfl := Body.done.inj (hcfg.symm.trans h)
    exact matRead_congr s _ a (construct_mat _ _ _) (construct_matOld _ _ _)
      (construct_freeCount _ _ _)

theorem nttBody_ne_stall (b : Buf) (d : Dir) (s : State) : nttBody b d s ≠ .stall := by
  obtain ⟨x, hx⟩ := nttBody_done b d s
  rw [hx]; nofun

theorem fwhtBody_ne_stall (b : Buf) (d : Dir) (s : State) : fwhtBody b d s ≠ .stall := by
  obtain ⟨x, hx⟩ := fwhtBody_done b d s
  rw [hx]; nofun

theorem modinvBody_ne_stall (s : State) : modinvBody s ≠ .stall := by
  unfold modinvBody
  split <;> nofun

theorem extractBody_ne_stall (s : State) : extractBody s ≠ .stall := fun h => by
  rcases andThen_eq_stall h with hfwht | ⟨_, _, hrest⟩
  · exact fwhtBody_ne_stall _ _ _ hfwht
  · cases hrest

/-- Of the parts of COMPUTE only the loop reads the matrix, and construction has not changed MAT
(43_orchestrator.md R210). -/
theorem computeBody_stall {z : SizeSel} {s : State} (h : computeBody z s = .stall) :
    ∃ a, matRead s a = .silent := by
  rcases andThen_eq_stall h with h | ⟨_, _, hextract⟩
  · rcases andThen_eq_stall h with h | ⟨_, _, hmutate⟩
    · rcases andThen_eq_stall h with hconfig | ⟨u, hconfig, hrows⟩
      · exact absurd hconfig (configBody_ne_stall z s)
      · obtain ⟨a, ha⟩ := fuseRows_stall hrows
        exact ⟨a, (matRead_of_configBody_done hconfig a).symm.trans ha⟩
    · cases hmutate
  · exact absurd hextract (extractBody_ne_stall _)

/-- The pseudocode of a command stalls only where a matrix read is never answered
(44_system.md R232). -/
theorem bodyOf_stall {i : Instr} {s : State} (h : bodyOf i s = .stall) :
    ∃ a, matRead s a = .silent := by
  cases i with
  | encrow => exact encrowBody_stall h
  | fuserow => exact fuserowBody_stall h
  | compute z => exact computeBody_stall h
  | config z => exact absurd h (configBody_ne_stall z s)
  | ntt b d => exact absurd h (nttBody_ne_stall b d s)
  | fwht b d => exact absurd h (fwhtBody_ne_stall b d s)
  | modinv => exact absurd h (modinvBody_ne_stall s)
  | extract => exact absurd h (extractBody_ne_stall s)
  | nop | modpow | bitrev | nttbf | scale | pmul | mutate | sreset => cases h

/-- A legal command completes, with a fault or without, where every matrix read is answered. -/
theorem exec_completes (i : Instr) {s : State} (hmat : matAnswers s) :
    ∃ t, exec i s = .next t ∧ t.busy = false ∧ t.cdone = true := by
  rw [exec_eq]
  rcases runCommand_cases i (bodyOf i) s with
    ⟨_, hrun⟩ | ⟨_, ⟨_, _, hrun⟩ | ⟨_, _, _, hrun⟩ | ⟨hstall, _⟩⟩
  · exact ⟨_, hrun, rfl, rfl⟩
  · exact ⟨_, hrun, rfl, rfl⟩
  · exact ⟨_, hrun, rfl, rfl⟩
  · obtain ⟨a, ha⟩ := bodyOf_stall hstall
    exact absurd ha (hmat a)

/-- Settles O7: a word is legal and its command completes, or it is illegal and completes with ILLCMD. -/
theorem issuedCommandCompletes : Obligations.IssuedCommandCompletes := by
  intro s u hbusy hturn hmat
  obtain ⟨_, hread⟩ := blockTurn_keeps hturn
  have hanswers : matAnswers u := fun a => by rw [hread a]; exact hmat a
  rw [step_turn hbusy hturn]
  cases hdecode : decode u.lcmd with
  | some i =>
    rw [completion_legal hdecode]
    exact exec_completes i hanswers
  | none =>
    rw [completion, hdecode]
    exact ⟨_, complete_raise .illcmd u u, rfl, rfl⟩

/-! ### A read that is never answered -/

theorem exec_stall {i : Instr} {s : State} (hp : phaseAllowed i s.phase = true)
    (hstall : bodyOf i s = .stall) : exec i s = .next s :=
  (exec_eq i s).trans (runCommand_stall hp hstall)

/-- The row that is being read stalls at column c, after data in the columns before it. -/
theorem readRow_of_silent {s : State} {i c : Nat} {M : Nat → Word} (hc : c < s.ncfg.toNat)
    (hreads : rowReads s s.mcfg s.ncfg.toNat i c M)
    (hsilent : matRead s (matAddr s.mcfg s.ncfg.toNat i c) = .silent) : readRow s i = .stalled :=
  encodeLoop_silent (fun j => matRead s (matAddr s.mcfg s.ncfg.toNat i j))
    (fun j => bucket i j s.ncfg.toNat s.nlen.toNat) M c s.ncfg.toNat 0
    (List.replicate s.nlen.toNat 0) hc (fun j hj => by simpa using hreads j hj) (by simpa using hsilent)

theorem encrowBody_of_silent {s : State} {c : Nat} {M : Nat → Word} (hc : c < s.ncfg.toNat)
    (hreads : rowReads s s.mcfg s.ncfg.toNat s.rowcnt.toNat c M)
    (hsilent : matRead s (matAddr s.mcfg s.ncfg.toNat s.rowcnt.toNat c) = .silent) :
    encrowBody s = .stall := by
  simp only [encrowBody, readRow_of_silent hc hreads hsilent]

/-- FUSEROW begins with ENCROW and stalls with it (43_orchestrator.md R201). -/
theorem fuserowBody_of_silent {s : State} {c : Nat} {M : Nat → Word} (hc : c < s.ncfg.toNat)
    (hreads : rowReads s s.mcfg s.ncfg.toNat s.rowcnt.toNat c M)
    (hsilent : matRead s (matAddr s.mcfg s.ncfg.toNat s.rowcnt.toNat c) = .silent) :
    fuserowBody s = .stall := by
  rw [fuserowBody, encrowBody_of_silent hc hreads hsilent, andThen_stall, andThen_stall, andThen_stall]

section
variable {s : State} {M : Nat → Nat → Word} {n m r c : Nat}

/-- COMPUTE's loop comes to row `r` with the rows before it fused, if their reads are answered with data. -/
theorem fuseRest_construct_from (hn : n < 2 ^ 31) (hm : m ≤ 14) (hr : r < n)
    (hrows : ∀ i < r, rowReads s s.mbase n i n (M i)) :
    ∃ row, fuseRest (construct n m s) =
      (fuserowBody (rowsFused M n m r row s)).andThen (fuseRows (n - (r + 1))) := by
  obtain ⟨row, hfused⟩ := fuseRows_construct hn hm hr.le hrows
  have hleft : (construct n m s).ncfg.toNat - (construct n m s).rowcnt.toNat =
      r + ((n - (r + 1)) + 1) := by
    obtain ⟨hcount, _⟩ := construct_rowsLeft m s hn
    rw [construct_ncfg_toNat m s hn] at hcount ⊢
    omega
  exact ⟨row, by rw [fuseRest, hleft, fuseRows_add, hfused, andThen_done, fuseRows]⟩

/-- The FUSEROW of row `r` stalls in COMPUTE: fusing rows has left MAT as it was. -/
theorem fuserowBody_rowsFused_silent (hn : n < 2 ^ 31) (hr : r < n) (hc : c < n)
    (hreads : rowReads s s.mbase n r c (M r)) (hsilent : matRead s (matAddr s.mbase n r c) = .silent)
    (row : List Residue) : fuserowBody (rowsFused M n m r row s) = .stall := by
  have hncfg : (rowsFused M n m r row s).ncfg.toNat = n := toNat_ofNat_ncfg hn
  have hrowcnt : (rowsFused M n m r row s).rowcnt.toNat = r := toNat_ofNat_ncfg (hr.trans hn)
  refine fuserowBody_of_silent (c := c) (M := M r) (by rwa [hncfg]) ?_ ?_ <;> rw [hncfg, hrowcnt]
  · exact rowReads_congr rfl rfl rfl hreads
  · exact (matRead_congr s _ _ rfl rfl rfl).trans hsilent

end

/-- Settles O8: the row or, in COMPUTE, the loop stalls, and a stalled command leaves the state as it
is. -/
theorem unansweredMatrixReadKeepsBusy : Obligations.UnansweredMatrixReadKeepsBusy := by
  refine ⟨fun s c M hphase hc hreads hsilent => ?_,
    fun s z r c M hdim hr hc hroot hrows hreads hsilent => ?_⟩
  · exact ⟨exec_stall (by rw [hphase]; rfl) (encrowBody_of_silent hc hreads hsilent),
      exec_stall (by rw [hphase]; rfl) (fuserowBody_of_silent hc hreads hsilent)⟩
  · have hn : (dimension s).toNat < 2 ^ 31 := dimension_toNat_lt s
    obtain ⟨row, hrest⟩ := fuseRest_construct_from hn (sizeLog_le _) hr hrows
    have hstall : computeBody z s = .stall := by
      rw [computeBody, configBody_done hdim hroot, andThen_done, hrest,
        fuserowBody_rowsFused_silent hn hr hc hreads hsilent, andThen_stall, andThen_stall,
        andThen_stall]
    exact exec_stall rfl hstall

end Sys2Proof.Machine

/-! Proofs for 60_exceptions.md: who raises which fault, the fault record while ERR = 1, the illegal word
and the matrix error. What a completion records is read off the end of its pseudocode (`bodyOf_raises`);
what a step keeps while ERR = 1 is `SameWhileErr`. -/

namespace Sys2Proof.Machine

/-! ### An illegal word -/

/-- A latched word that is no command completes with ILLCMD and changes nothing else
(60_exceptions.md R241). -/
theorem completion_illegal {s : State} (h : decode s.lcmd = none) :
    completion s = .next (completedFault .illcmd s) := by
  rw [completion, h]
  exact complete_raise .illcmd s s

/-- Settles O6: the block's turn is the completion step of the word that was latched. -/
theorem illegalWordCompletesWithFault : Obligations.IllegalWordCompletesWithFault := by
  intro s t hbusy hturn hillegal
  obtain ⟨hlcmd, _⟩ := blockTurn_keeps hturn
  rw [step_turn hbusy hturn, completion_illegal (by rw [hlcmd, hillegal]), completedFault, hlcmd]

/-! ### A matrix error -/

/-- Settles O38: both commands stop in the state `encodeFailed` of the failing read, so they leave the same
residues in ROW (log 5). -/
theorem matrixErrorFaults : Obligations.MatrixErrorFaults := by
  intro s c M hphase hc hreads herror
  refine ⟨freeRow s, freeRow_length s, ?_⟩
  rintro i (rfl | rfl)
  · exact exec_raise (by rw [hphase]; rfl) (encrowBody_of_error hc hreads herror)
  · exact exec_raise (by rw [hphase]; rfl) (fuserowBody_of_error hc hreads herror)

/-! ### Who raises which fault -/

theorem Body.Post.and {fin fin' : State → Prop} {raised raised' : ErrCode → State → Prop} {b : Body}
    (hb : b.Post fin raised) (hb' : b.Post fin' raised') :
    b.Post (fun u => fin u ∧ fin' u) fun c u => raised c u ∧ raised' c u := by
  cases b with
  | done u => exact ⟨hb, hb'⟩
  | raise c u => exact ⟨hb, hb'⟩
  | stall => trivial

/-- PRECOND is raised by construction only, in the state the command found (60_exceptions.md R243). -/
theorem bodyOf_precond {i : Instr} (hi : i ≠ .sreset) (s : State) :
    (bodyOf i s).Post (fun _ => True) fun c u => c = .precond → u = s := by
  have hother (hno : .precond ∉ raisedBy i) :
      (bodyOf i s).Post (fun _ => True) fun c u => c = .precond → u = s :=
    (bodyOf_ownFault hi s).imp (fun _ _ => trivial) fun _ _ ⟨hlisted, _⟩ hc =>
      absurd (hc ▸ hlisted) hno
  cases i with
  | config z => exact configBody_post z s (fun _ _ _ _ _ => trivial) fun _ => rfl
  | compute z =>
    refine (computeBody_keepsOutside z s).imp (fun _ _ => trivial) ?_
    rintro c u ⟨_, rfl | ⟨rfl, _⟩⟩
    · exact fun _ => rfl
    · nofun
  | nop | modpow | modinv | bitrev | nttbf | ntt | fwht | scale | pmul | encrow | fuserow | mutate
  | extract => exact hother (by simp [raisedBy])
  | sreset => exact absurd rfl hi

/-- A command but SRESET that is done leaves the fault record alone. One that raises a fault raises one of
its own and has kept its word in LCMD, and before PRECOND it has changed nothing (60_exceptions.md R240,
R243). -/
theorem bodyOf_raises {i : Instr} (hi : i ≠ .sreset) (s : State) :
    (bodyOf i s).Post (sameFaultRecord s) fun c u =>
      ownFault i c ∧ u.lcmd = s.lcmd ∧ (c = .precond → u = s) :=
  ((bodyOf_ownFault hi s).and ((bodyOf_writesOwn hi s).and (bodyOf_precond hi s))).imp
    (fun _ ⟨hrecord, _⟩ => hrecord)
    fun _ _ ⟨hown, hwrites, hprecond⟩ => ⟨hown, hwrites.lcmd, hprecond⟩

/-- A command that some phase keeps out lists SEQ among its faults (60_exceptions.md R240,
43_orchestrator.md R212). -/
theorem seq_mem_raisedBy {i : Instr} {p : Phase} (h : phaseAllowed i p = false) : .seq ∈ raisedBy i := by
  cases i with
  | bitrev | nttbf | ntt | fwht | scale | pmul | encrow | fuserow | mutate | extract =>
    simp [raisedBy]
  | nop | modpow | modinv | config | compute | sreset => simp [phaseAllowed] at h

/-- Settles O10: out of phase a command records SEQ; in phase it records what its pseudocode raises
(`bodyOf_raises`), but for SRESET, which clears the record. -/
theorem faultsAndTheirRaisers : Obligations.FaultsAndTheirRaisers := by
  intro i s t h
  by_cases hi : i = .sreset
  · subst hi
    obtain rfl := Host.Outcome.next.inj h
    exact .inr (.inl ⟨rfl, rfl, rfl, rfl⟩)
  have hends := bodyOf_raises hi s
  rw [exec_eq] at h
  rcases runCommand_cases i (bodyOf i) s with
    ⟨hno, hrun⟩ | ⟨_, ⟨u, hu, hrun⟩ | ⟨c, u, hu, hrun⟩ | ⟨_, hrun⟩⟩ <;>
    obtain rfl := Host.Outcome.next.inj (hrun.symm.trans h)
  · exact .inr (.inr ⟨rfl, seq_mem_raisedBy hno, rfl, fun _ => rfl⟩)
  · rw [hu] at hends
    exact .inl hends
  · rw [hu] at hends
    obtain ⟨⟨hlisted, hseq⟩, hlcmd, hprecond⟩ := hends
    refine .inr (.inr ⟨rfl, hlisted, hlcmd, ?_⟩)
    rintro (hc | hc)
    · exact absurd hc hseq
    · exact congrArg (completedFault c) (hprecond hc)
  · exact .inl ⟨rfl, rfl, rfl⟩

/-! ### While ERR = 1 -/

/-- All that a step may change while ERR = 1 and no reset comes: IE, the command in flight, MAT, what
stands on the host's side of the bus and the free-value counter (60_exceptions.md R251). -/
def SameWhileErr (s t : State) : Prop :=
  t = { s with
    ie := t.ie
    busy := t.busy
    cdone := t.cdone
    lcmd := t.lcmd
    mat := t.mat
    matOld := t.matOld
    inputs := t.inputs
    replies := t.replies
    freeCount := t.freeCount }

theorem SameWhileErr.reply {s t : State} (h : SameWhileErr s t) (r : Reply) :
    SameWhileErr s (reply r t) := congrArg (Machine.reply r) h

/-- The writes ERR leaves open are those to CMD, STATUS and CTRL (20_memory.md R95). -/
theorem sameWhileErr_hostWrite {s t : State} (he : s.err = true) {off width : Nat} {v : Word}
    (h : hostWrite s off width v = some t) : SameWhileErr s t := by
  have hlocked : s.err ≠ false := by simp [he]
  obtain ⟨_, _, ⟨r, _, hreg⟩ | ⟨_, _, _, _, _, _, hok, _⟩⟩ := hostWrite_cases s t off width v h
  · rcases regWrite_cases s t v r hreg with
      ⟨_, _, _, rfl⟩ | ⟨_, ⟨_, rfl⟩ | ⟨_, rfl⟩⟩ | ⟨_, _, rfl⟩ | ⟨hok, _⟩
    case inr.inr.inr => exact absurd hok hlocked
    all_goals exact rfl
  · exact absurd hok hlocked

/-- A move of the host or the platform keeps a state with ERR = 1, or it is the reset input. -/
theorem sameWhileErr_access {s t : State} (he : s.err = true) {m : Move} (h : access m s = .next t) :
    SameWhileErr s t ∨ t.err = false ∧ m = .rst := by
  rcases access_next m s t h with
    ⟨r, rfl⟩ | ⟨_, _, _, u, _, hwrite, rfl⟩ | ⟨hrst, rfl⟩ | ⟨a, r, _, rfl⟩ | ⟨_, rfl⟩
  · exact .inl rfl
  · exact .inl ((sameWhileErr_hostWrite he hwrite).reply .ok)
  · exact .inr ⟨rfl, hrst⟩
  · exact .inl rfl
  · exact .inl rfl

/-- The completion of SRESET clears the fault record (44_system.md R236). -/
theorem completion_sreset {s t : State} (hlcmd : s.lcmd = 0x3F) (h : completion s = .next t) :
    t.err = false := by
  have hdecode : decode s.lcmd = some .sreset := by rw [hlcmd]; exact decode_encode .sreset
  rw [completion_legal hdecode] at h
  obtain rfl := Host.Outcome.next.inj h
  rfl

/-- Settles O11: the only command in flight in a good state with ERR = 1 is SRESET, and of the moves only
the reset input clears ERR. -/
theorem faultIsSticky : Obligations.FaultIsSticky := by
  intro s t hinv he hstep
  rcases step_cases s with ⟨u, hbusy, hturn, hu⟩ | ⟨m, rest, hin, _, hm⟩ | ⟨_, _, hidle⟩
  · have hsreset := hinv.busy_err hbusy he
    obtain ⟨hlcmd, _⟩ := blockTurn_keeps hturn
    exact .inr ⟨completion_sreset (hlcmd.trans hsreset) (hu.symm.trans hstep), .inr ⟨hbusy, hsreset⟩⟩
  · rcases sameWhileErr_access (s := { s with inputs := rest }) he (hm.symm.trans hstep) with
      hsame | ⟨hclear, rfl⟩
    · exact .inl hsame
    · exact .inr ⟨hclear, .inl ⟨rest, hin⟩⟩
  · obtain rfl := Host.Outcome.next.inj (hidle.symm.trans hstep)
    exact .inl rfl

end Sys2Proof.Machine
